-- ==== Sys2Proof/Word.lean ====
section
/-! DEFINITION. The word types of the block: every register and port is 8 bits wide (R91), the running CRC is
16 bits wide (R60). -/

namespace Sys2Proof

/-- A byte: a register, a port value, one raw cell of a track (R91, R69). -/
abbrev Byte := BitVec 8

/-- A 16-bit value: the running CRC (R60). -/
abbrev Half := BitVec 16

/-- A Bool as the byte 0 or 1. -/
def byteOfBool (b : Bool) : Byte := if b then 1 else 0

/-- The high byte of a 16-bit value (a CRC is stored high byte first, R91). -/
def hiByte (w : Half) : Byte := w.extractLsb' 8 8

/-- The low byte of a 16-bit value. -/
def loByte (w : Half) : Byte := w.extractLsb' 0 8

/-- The 16-bit value with the given high and low bytes: `hi:lo` of R11. -/
def halfOf (hi lo : Byte) : Half := hi ++ lo

end Sys2Proof
end

