-- ==== Sys2Proof/Config.lean ====
section
/-! DEFINITION. The implementation parameters of R9 with the spec's default values, and the one value the spec leaves
open. The parameters ride in the state (field `cfg`), because the step has no other argument; no step changes them. -/

namespace Sys2Proof

/-- The parameters of R9, each under the spec's name, and the one of I23. -/
structure Config where
  /-- P_NUM_DRIVES, drives on the controller: 1 to 4, the select field's four bits (R64, R111). -/
  numDrives : Nat
  /-- P_MAX_TRACK, the highest physical head position. -/
  maxTrack : Nat
  /-- P_CPU_HZ, T-states per second. -/
  cpuHz : Nat
  /-- P_TICKS_PER_TSTATE, the sub-division factor. -/
  ticksPerTstate : Nat
  /-- P_RPM, rotation rate. -/
  rpm : Nat
  /-- P_ANGLE_SCALE, angle subdivisions per revolution. -/
  angleScale : Nat
  /-- P_INDEX_PPM, index-pulse width in angle units. -/
  indexPpm : Nat
  /-- P_BYTE_US_DD, double-density byte-time in microseconds. -/
  byteUsDd : Nat
  /-- P_BYTE_US_SD, single-density byte-time in microseconds. -/
  byteUsSd : Nat
  /-- P_STEP_US[0..3], step rates in microseconds. -/
  stepUs : Vector Nat 4
  /-- P_SETTLE_US, head-settle delay in microseconds. -/
  settleUs : Nat
  /-- P_MOTOR_TIMEOUT_US, motor run time after the last select. -/
  motorTimeoutUs : Nat
  /-- P_REV_LIMIT, ID-search ceiling in revolutions. -/
  revLimit : Nat
  /-- P_DAM_LIMIT_SD, data-mark window in single density. -/
  damLimitSd : Nat
  /-- P_DAM_LIMIT_DD, data-mark window in double density. -/
  damLimitDd : Nat
  /-- P_RESTORE_LIMIT, Restore step ceiling. -/
  restoreLimit : Nat
  /-- P_WS_DRQ_AT, the gap byte at which Write Sector raises DRQ. -/
  wsDrqAt : Nat
  /-- P_WS_WINDOW_SD, the gap window in single density. -/
  wsWindowSd : Nat
  /-- P_WS_WINDOW_DD, the gap window in double density. -/
  wsWindowDd : Nat
  /-- P_WS_ZEROS_SD, zero bytes before the mark in single density. -/
  wsZerosSd : Nat
  /-- P_WS_ZEROS_DD, zero bytes before the mark in double density. -/
  wsZerosDd : Nat
  /-- P_WT_WINDOW, byte-times allowed for Write Track's first byte. -/
  wtWindow : Nat
  /-- P_IDAM_SLOTS, IDAM pointer slots per track header. -/
  idamSlots : Nat
  /-- P_TRACK_HDR, track header bytes. -/
  trackHdr : Nat
  /-- P_IMAGE_HDR, disk-image header bytes. -/
  imageHdr : Nat
  /-- What an IDAM pointer of a disk-image file counts from, in bytes before the first data byte: P_TRACK_HDR when it is
  the start of the track record (R365), 0 under the other reading (93_implementation_defined.md I23, a parameter). -/
  idamBase : Nat
  /-- P_TRACK_LEN_MAX, largest declared track length. -/
  trackLenMax : Nat
  /-- P_TRACK_LEN_NEW, declared track length of new media. -/
  trackLenNew : Nat
  /-- P_CRC_POLY, the generator polynomial. -/
  crcPoly : Half
  /-- P_SEED_SD, the single-density CRC seed. -/
  seedSd : Half
  /-- P_SEED_DD, the double-density CRC seed. -/
  seedDd : Half
  /-- P_PORT_BASE, I/O address of port offset 0. -/
  portBase : Byte
  /-- P_WAIT_TSTATES, T-states per wait-state unit. -/
  waitTstates : Nat
  /-- P_INTERLEAVE, new-disk sector interleave. -/
  interleave : Nat
  /-- P_SECTORS_DD, sectors per track of new double-density media. -/
  sectorsDd : Nat
  /-- P_SECTORS_SD, sectors per track of new single-density media. -/
  sectorsSd : Nat
  /-- P_SECTOR_BYTES_NEW, sector size of new media. -/
  sectorBytesNew : Nat
  /-- P_FILL_DATA, data byte of new sectors. -/
  fillData : Byte
  /-- P_PAD, byte of unformatted tracks and of save padding. -/
  pad : Byte
deriving DecidableEq, Repr

/-- The default values of R9. -/
def Config.default : Config where
  numDrives := 4
  maxTrack := 79
  cpuHz := 2027520
  ticksPerTstate := 1000
  rpm := 300
  angleScale := 1000000
  indexPpm := 20000
  byteUsDd := 32
  byteUsSd := 64
  stepUs := #v[6000, 12000, 20000, 30000]
  settleUs := 30000
  motorTimeoutUs := 2000000
  revLimit := 5
  damLimitSd := 30
  damLimitDd := 43
  restoreLimit := 255
  wsDrqAt := 2
  wsWindowSd := 11
  wsWindowDd := 22
  wsZerosSd := 6
  wsZerosDd := 12
  wtWindow := 3
  idamSlots := 64
  trackHdr := 128
  imageHdr := 16
  idamBase := 128
  trackLenMax := 0x1E00
  trackLenNew := 0x1900
  crcPoly := 0x1021
  seedSd := 0xFFFF
  seedDd := 0xCDB4
  portBase := 0xF0
  waitTstates := 1
  interleave := 3
  sectorsDd := 18
  sectorsSd := 10
  sectorBytesNew := 256
  fillData := 0xE5
  pad := 0x00

/-- FREE VALUE. The density of an ID mark for which a disk-image file holds two pointers with the same offset and
different density bits: R366 says only 'duplicates removed', so which density survives is left open. No body: no proof
can see it. DESIGN CHOICE, safe (assumption 9). -/
opaque Config.idamClash : Nat → Bool

end Sys2Proof
end

