-- ==== Sys2Proof/Syntax.lean ====
section
/-! DEFINITION. The instructions of the block: one constructor per row of the opcode table (11 commands, 10 port
operations, 5 scheduler and sequencer primitives), with the operand types they carry. -/

namespace Sys2Proof

/-- The command kinds, decoded from the command byte (R56, R117). -/
inductive CmdKind where
  | restore | seek | step | stepIn | stepOut
  | readSector | writeSector
  | readAddress | readTrack | writeTrack
  | forceInterrupt
deriving DecidableEq, Repr

/-- The four command types of R112. -/
inductive CmdType where
  | typeI | typeII | typeIII | typeIV
deriving DecidableEq, Repr

/-- The command sequencer states `OpStatus` of R55: thirteen from the source, twelve added by the spec. -/
inductive OpStatus where
  | prepare | delay | checkWriteProtect | seekingIdam | readingAddressData | verifyTrack | seekingDam
  | readingData | writingData | readCrc | writeCrc | nmi | opDone
  | typeIStep | checkVerify | verifySettle | searchStart | writeGap | writingFiller | writingDam
  | writeTrailer | writeTrackDrq | seekingIndexHole | readingTrack | writingTrack
deriving DecidableEq, Repr

/-- The callbacks a pulse can carry (R32). An External callback writes no state of the block (R36). -/
inductive Callback where
  | fdcStep | motorOff | indexIrq | external
deriving DecidableEq, Repr

/-- The instructions, one constructor per row of the opcode table. A command carries every bit of its byte, the
ignored ones (`x`) too, because the command register keeps the byte as written (R37). -/
inductive Instr where
  /-- RESTORE, `0000hVrr` (R202). -/
  | restore (h v : Bool) (r : BitVec 2)
  /-- SEEK, `0001hVrr` (R203). -/
  | seek (h v : Bool) (r : BitVec 2)
  /-- STEP, `001uhVrr` (R204). -/
  | step (u h v : Bool) (r : BitVec 2)
  /-- STEPIN, `010uhVrr` (R205). -/
  | stepIn (u h v : Bool) (r : BitVec 2)
  /-- STEPOUT, `011uhVrr` (R206). -/
  | stepOut (u h v : Bool) (r : BitVec 2)
  /-- READ_SECTOR, `100mSECx`; bit 0 is ignored (R240, R120). -/
  | readSector (m s e c x : Bool)
  /-- WRITE_SECTOR, `101mSECa` (R250). -/
  | writeSector (m s e c a0 : Bool)
  /-- READ_ADDRESS, `1100xExx`; bits 3, 1 and 0 are ignored (R270, R120). -/
  | readAddress (x3 e x1 x0 : Bool)
  /-- FORCE_INTERRUPT, `1101IIII` (R300). -/
  | forceInterrupt (i3 i2 i1 i0 : Bool)
  /-- READ_TRACK, `1110xExx` (R278). -/
  | readTrack (x3 e x1 x0 : Bool)
  /-- WRITE_TRACK, `1111xExx`, also written FORMAT (R285, R123). -/
  | writeTrack (x3 e x1 x0 : Bool)
  /-- RD_STATUS, `IN` of port offset 0 (R172). -/
  | rdStatus
  /-- WR_COMMAND, `OUT` of a command byte to port offset 0 (R171). -/
  | wrCommand (value : Byte)
  /-- RD_TRACK, `IN` of port offset 1 (R174). -/
  | rdTrack
  /-- WR_TRACK, `OUT` to port offset 1 (R173). -/
  | wrTrack (value : Byte)
  /-- RD_SECTOR, `IN` of port offset 2 (R176). -/
  | rdSector
  /-- WR_SECTOR, `OUT` to port offset 2 (R175). -/
  | wrSector (value : Byte)
  /-- RD_DATA, `IN` of port offset 3 (R178). -/
  | rdData
  /-- WR_DATA, `OUT` to port offset 3 (R177). -/
  | wrData (value : Byte)
  /-- RD_SELECT, `IN` of port offset 4 (R180). -/
  | rdSelect
  /-- WR_SELECT, `OUT` to port offset 4 (R179). -/
  | wrSelect (value : Byte)
  /-- ADVANCE: the Host's unit ends having cost `n` T-states; time passes and due pulses fire (R141). -/
  | advance (n : Nat)
  /-- REGISTER_PULSE: `RegisterPulse(cb, delay, periodic, period)` (R143). -/
  | registerPulse (cb : Callback) (delay : Nat) (periodic : Bool) (period : Nat)
  /-- EXPIRE: `Expire(h)` (R144). -/
  | expire (handle : Nat)
  /-- DISPATCH: fire every due pulse (R145). -/
  | dispatch
  /-- GOTO: `goto S after d` (R147). -/
  | goto (target : OpStatus) (delay : Nat)
deriving DecidableEq, Repr

end Sys2Proof
end

