-- ==== Sys2Proof/WellFormed.lean ====
section
/-! DEFINITION. Which instruction terms are well formed: the operand ranges the spec states. Every command byte and
every port value is legal (R120), so only the scheduler primitives have something to check. -/

namespace Sys2Proof

/-- A `u64` operand: ticks, delays, periods and T-state counts are unsigned 64-bit values (R11, R141, R143, R147). -/
def isU64 (n : Nat) : Bool := decide (n < 2 ^ 64)

/-- The operand checks of an instruction: ADVANCE needs `n ≥ 1` (R141), and every `u64` operand is below `2^64`. -/
def Instr.wf : Instr → Bool
  | .restore _ _ _ => true
  | .seek _ _ _ => true
  | .step _ _ _ _ => true
  | .stepIn _ _ _ _ => true
  | .stepOut _ _ _ _ => true
  | .readSector _ _ _ _ _ => true
  | .writeSector _ _ _ _ _ => true
  | .readAddress _ _ _ _ => true
  | .forceInterrupt _ _ _ _ => true
  | .readTrack _ _ _ _ => true
  | .writeTrack _ _ _ _ => true
  | .rdStatus => true
  | .wrCommand _ => true
  | .rdTrack => true
  | .wrTrack _ => true
  | .rdSector => true
  | .wrSector _ => true
  | .rdData => true
  | .wrData _ => true
  | .rdSelect => true
  | .wrSelect _ => true
  | .advance n => decide (1 ≤ n) && isU64 n
  | .registerPulse _ delay _ period => isU64 delay && isU64 period
  | .expire handle => isU64 handle
  | .dispatch => true
  | .goto _ delay => isU64 delay

end Sys2Proof
end

