-- ==== Sys2Proof/Decode.lean ====
section
/-! DEFINITION. Decoding and encoding. A command byte is decoded by R117, total on all 256 values. One instruction
as the Host issues it is a short byte string: byte 0 is the opcode table's byte (the command byte, or the I/O address of
the port), byte 1 says what it is (0 command byte, 1 `IN`, 2 `OUT`, 3 to 7 the scheduler primitives, which the table gives
no bits), and operand bytes follow, least significant first. The spec gives the command bytes (R113 to R116) and the port
addresses (R110); byte 1 and the operand layout are the model's own (DESIGN CHOICE, safe, assumption 1). -/

namespace Sys2Proof

/-! ### Command bytes (R112 to R117) -/

/-- `decode(b)` of R117: the command kind of a byte, the first row `(b & mask) = match` that holds. -/
def kindOf (b : Byte) : CmdKind :=
  if b &&& 0xF0 = 0x00 then .restore
  else if b &&& 0xF0 = 0x10 then .seek
  else if b &&& 0xE0 = 0x20 then .step
  else if b &&& 0xE0 = 0x40 then .stepIn
  else if b &&& 0xE0 = 0x60 then .stepOut
  else if b &&& 0xE0 = 0x80 then .readSector
  else if b &&& 0xE0 = 0xA0 then .writeSector
  else if b &&& 0xF0 = 0xC0 then .readAddress
  else if b &&& 0xF0 = 0xD0 then .forceInterrupt
  else if b &&& 0xF0 = 0xE0 then .readTrack
  else .writeTrack

/-- `type(cmd)` of R117. -/
def CmdKind.type : CmdKind → CmdType
  | .restore | .seek | .step | .stepIn | .stepOut => .typeI
  | .readSector | .writeSector => .typeII
  | .readAddress | .readTrack | .writeTrack => .typeIII
  | .forceInterrupt => .typeIV

/-- `type(cmd) = I`. -/
def CmdKind.isTypeI (k : CmdKind) : Bool := decide (k.type = .typeI)

/-- The commands that search for an ID field: Type I verify, Read Sector, Write Sector, Read Address (R231). -/
def CmdKind.searches (k : CmdKind) : Bool :=
  k.isTypeI || k == .readSector || k == .writeSector || k == .readAddress

/-- `0000hVrr` (R113). -/
def byteRestore (h v : Bool) (r : BitVec 2) : Byte := 0b0000#4 ++ BitVec.ofBool h ++ BitVec.ofBool v ++ r

/-- `0001hVrr` (R113). -/
def byteSeek (h v : Bool) (r : BitVec 2) : Byte := 0b0001#4 ++ BitVec.ofBool h ++ BitVec.ofBool v ++ r

/-- `001uhVrr` (R113). -/
def byteStep (u h v : Bool) (r : BitVec 2) : Byte :=
  0b001#3 ++ BitVec.ofBool u ++ BitVec.ofBool h ++ BitVec.ofBool v ++ r

/-- `010uhVrr` (R113). -/
def byteStepIn (u h v : Bool) (r : BitVec 2) : Byte :=
  0b010#3 ++ BitVec.ofBool u ++ BitVec.ofBool h ++ BitVec.ofBool v ++ r

/-- `011uhVrr` (R113). -/
def byteStepOut (u h v : Bool) (r : BitVec 2) : Byte :=
  0b011#3 ++ BitVec.ofBool u ++ BitVec.ofBool h ++ BitVec.ofBool v ++ r

/-- `100mSECx` (R114). -/
def byteReadSector (m s e c x : Bool) : Byte :=
  0b100#3 ++ BitVec.ofBool m ++ BitVec.ofBool s ++ BitVec.ofBool e ++ BitVec.ofBool c ++ BitVec.ofBool x

/-- `101mSECa` (R114). -/
def byteWriteSector (m s e c a0 : Bool) : Byte :=
  0b101#3 ++ BitVec.ofBool m ++ BitVec.ofBool s ++ BitVec.ofBool e ++ BitVec.ofBool c ++ BitVec.ofBool a0

/-- `1100xExx` (R115). -/
def byteReadAddress (x3 e x1 x0 : Bool) : Byte :=
  0b1100#4 ++ BitVec.ofBool x3 ++ BitVec.ofBool e ++ BitVec.ofBool x1 ++ BitVec.ofBool x0

/-- `1101IIII` (R116). -/
def byteForceInterrupt (i3 i2 i1 i0 : Bool) : Byte :=
  0b1101#4 ++ BitVec.ofBool i3 ++ BitVec.ofBool i2 ++ BitVec.ofBool i1 ++ BitVec.ofBool i0

/-- `1110xExx` (R115). -/
def byteReadTrack (x3 e x1 x0 : Bool) : Byte :=
  0b1110#4 ++ BitVec.ofBool x3 ++ BitVec.ofBool e ++ BitVec.ofBool x1 ++ BitVec.ofBool x0

/-- `1111xExx` (R115). -/
def byteWriteTrack (x3 e x1 x0 : Bool) : Byte :=
  0b1111#4 ++ BitVec.ofBool x3 ++ BitVec.ofBool e ++ BitVec.ofBool x1 ++ BitVec.ofBool x0

/-- The step-rate field `r = CR[1:0]` (R113). -/
def rateField (b : Byte) : BitVec 2 := b.extractLsb' 0 2

/-- The instruction a command byte stands for, with its fields (R113 to R117). -/
def decodeCommand (b : Byte) : Instr :=
  match kindOf b with
  | .restore => .restore (b.getLsbD 3) (b.getLsbD 2) (rateField b)
  | .seek => .seek (b.getLsbD 3) (b.getLsbD 2) (rateField b)
  | .step => .step (b.getLsbD 4) (b.getLsbD 3) (b.getLsbD 2) (rateField b)
  | .stepIn => .stepIn (b.getLsbD 4) (b.getLsbD 3) (b.getLsbD 2) (rateField b)
  | .stepOut => .stepOut (b.getLsbD 4) (b.getLsbD 3) (b.getLsbD 2) (rateField b)
  | .readSector => .readSector (b.getLsbD 4) (b.getLsbD 3) (b.getLsbD 2) (b.getLsbD 1) (b.getLsbD 0)
  | .writeSector => .writeSector (b.getLsbD 4) (b.getLsbD 3) (b.getLsbD 2) (b.getLsbD 1) (b.getLsbD 0)
  | .readAddress => .readAddress (b.getLsbD 3) (b.getLsbD 2) (b.getLsbD 1) (b.getLsbD 0)
  | .forceInterrupt => .forceInterrupt (b.getLsbD 3) (b.getLsbD 2) (b.getLsbD 1) (b.getLsbD 0)
  | .readTrack => .readTrack (b.getLsbD 3) (b.getLsbD 2) (b.getLsbD 1) (b.getLsbD 0)
  | .writeTrack => .writeTrack (b.getLsbD 3) (b.getLsbD 2) (b.getLsbD 1) (b.getLsbD 0)

/-! ### Operand bytes -/

/-- The codes of the callbacks in an encoded REGISTER_PULSE (assumption 1). -/
def callbackCodes : List Callback := [.fdcStep, .motorOff, .indexIrq, .external]

/-- The codes of the sequencer states in an encoded GOTO: their order in R55 (assumption 1). -/
def opStatusCodes : List OpStatus :=
  [.prepare, .delay, .checkWriteProtect, .seekingIdam, .readingAddressData, .verifyTrack, .seekingDam,
   .readingData, .writingData, .readCrc, .writeCrc, .nmi, .opDone] ++
  [.typeIStep, .checkVerify, .verifySettle, .searchStart, .writeGap, .writingFiller, .writingDam,
   .writeTrailer, .writeTrackDrq, .seekingIndexHole, .readingTrack, .writingTrack]

/-- `k` bytes of a number, least significant first. -/
def leBytes : Nat → Nat → List Byte
  | 0, _ => []
  | k + 1, n => BitVec.ofNat 8 n :: leBytes k (n / 256)

/-- The number a byte string stands for, least significant byte first. -/
def leValue : List Byte → Nat
  | [] => 0
  | b :: bs => b.toNat + 256 * leValue bs

/-- The first `k` bytes read as a number, with the bytes after them; none when there are fewer. -/
def takeLe (k : Nat) (bs : List Byte) : Option (Nat × List Byte) :=
  if k ≤ bs.length then some (leValue (bs.take k), bs.drop k) else none

/-! ### One instruction as the Host issues it -/

/-- Why a byte string is no instruction. -/
inductive DecodeError where
  /-- Fewer bytes than the instruction has. -/
  | truncated
  /-- Byte 1 is none of 0 to 7. -/
  | unknownSelector
  /-- The I/O address is none of the five the block decodes for this direction (R94). -/
  | notAPort
  /-- An operand is outside the range of R141 or R147, or names no callback or state; byte 0 of a primitive is not 0. -/
  | badOperand
  /-- A byte other than 0 follows the instruction. -/
  | trailingBytes
deriving DecidableEq, Repr

/-- Accept `i` when the remaining bytes are all 0. -/
def finishDecode (i : Instr) (rest : List Byte) : Except DecodeError Instr :=
  if rest.all (· == 0) then .ok i else .error .trailingBytes

/-- Accept `i` when it is well formed and the remaining bytes are all 0. -/
def finishChecked (i : Instr) (rest : List Byte) : Except DecodeError Instr :=
  if i.wf then finishDecode i rest else .error .badOperand

/-- `IN` of an I/O address: the port at offset `addr - base` (R94, R110). I/O addresses are 8 bits wide and wrap modulo 256,
which shows only with a base above 0xFB (DESIGN CHOICE, assumption 24). -/
def decodeIn (base addr : Byte) (rest : List Byte) : Except DecodeError Instr :=
  match (addr - base).toNat with
  | 0 => finishDecode .rdStatus rest
  | 1 => finishDecode .rdTrack rest
  | 2 => finishDecode .rdSector rest
  | 3 => finishDecode .rdData rest
  | 4 => finishDecode .rdSelect rest
  | _ => .error .notAPort

/-- `OUT` of a byte to an I/O address: the port at offset `addr - base` (R94, R110), modulo 256 as in `decodeIn`
(DESIGN CHOICE, assumption 24). -/
def decodeOut (base addr : Byte) (ops : List Byte) : Except DecodeError Instr :=
  match ops with
  | [] => .error .truncated
  | v :: rest =>
    match (addr - base).toNat with
    | 0 => finishDecode (.wrCommand v) rest
    | 1 => finishDecode (.wrTrack v) rest
    | 2 => finishDecode (.wrSector v) rest
    | 3 => finishDecode (.wrData v) rest
    | 4 => finishDecode (.wrSelect v) rest
    | _ => .error .notAPort

/-- An encoded ADVANCE. -/
def decodeAdvance (ops : List Byte) : Except DecodeError Instr :=
  match takeLe 8 ops with
  | some (n, rest) => finishChecked (.advance n) rest
  | none => .error .truncated

/-- An encoded REGISTER_PULSE: callback, periodic, delay, period. -/
def decodeRegisterPulse (ops : List Byte) : Except DecodeError Instr :=
  match ops with
  | cb :: periodic :: ops' =>
    match callbackCodes[cb.toNat]?, takeLe 8 ops' with
    | some callback, some (delay, ops'') =>
      match takeLe 8 ops'' with
      | some (period, rest) =>
        if periodic.toNat ≤ 1 then finishChecked (.registerPulse callback delay (periodic == 1) period) rest
        else .error .badOperand
      | none => .error .truncated
    | none, _ => .error .badOperand
    | _, none => .error .truncated
  | _ => .error .truncated

/-- An encoded EXPIRE. -/
def decodeExpire (ops : List Byte) : Except DecodeError Instr :=
  match takeLe 8 ops with
  | some (h, rest) => finishChecked (.expire h) rest
  | none => .error .truncated

/-- An encoded GOTO: state, delay. -/
def decodeGoto (ops : List Byte) : Except DecodeError Instr :=
  match ops with
  | [] => .error .truncated
  | st :: ops' =>
    match opStatusCodes[st.toNat]?, takeLe 8 ops' with
    | some target, some (delay, rest) => finishChecked (.goto target delay) rest
    | none, _ => .error .badOperand
    | _, none => .error .truncated

/-- A scheduler primitive has byte 0 equal to 0. -/
def onlyAtZero (b0 : Byte) (r : Except DecodeError Instr) : Except DecodeError Instr :=
  if b0 = 0 then r else .error .badOperand

/-- The instruction of a byte string, with `base` the I/O address of port offset 0 (P_PORT_BASE). Total; what it does
not accept it rejects by name. -/
def decode (base : Byte) : List Byte → Except DecodeError Instr
  | b0 :: b1 :: ops =>
    match b1.toNat with
    | 0 => finishDecode (decodeCommand b0) ops
    | 1 => decodeIn base b0 ops
    | 2 => decodeOut base b0 ops
    | 3 => onlyAtZero b0 (decodeAdvance ops)
    | 4 => onlyAtZero b0 (decodeRegisterPulse ops)
    | 5 => onlyAtZero b0 (decodeExpire ops)
    | 6 => onlyAtZero b0 (finishDecode .dispatch ops)
    | 7 => onlyAtZero b0 (decodeGoto ops)
    | _ => .error .unknownSelector
  | _ => .error .truncated

/-- The byte string of an instruction (R113 to R116 for command bytes, R110 for ports, with the addresses modulo 256,
assumption 24; assumption 1 for the rest). -/
def encode (base : Byte) : Instr → List Byte
  | .restore h v r => [byteRestore h v r, 0]
  | .seek h v r => [byteSeek h v r, 0]
  | .step u h v r => [byteStep u h v r, 0]
  | .stepIn u h v r => [byteStepIn u h v r, 0]
  | .stepOut u h v r => [byteStepOut u h v r, 0]
  | .readSector m s e c x => [byteReadSector m s e c x, 0]
  | .writeSector m s e c a0 => [byteWriteSector m s e c a0, 0]
  | .readAddress x3 e x1 x0 => [byteReadAddress x3 e x1 x0, 0]
  | .forceInterrupt i3 i2 i1 i0 => [byteForceInterrupt i3 i2 i1 i0, 0]
  | .readTrack x3 e x1 x0 => [byteReadTrack x3 e x1 x0, 0]
  | .writeTrack x3 e x1 x0 => [byteWriteTrack x3 e x1 x0, 0]
  | .rdStatus => [base, 1]
  | .wrCommand v => [base, 2, v]
  | .rdTrack => [base + 1, 1]
  | .wrTrack v => [base + 1, 2, v]
  | .rdSector => [base + 2, 1]
  | .wrSector v => [base + 2, 2, v]
  | .rdData => [base + 3, 1]
  | .wrData v => [base + 3, 2, v]
  | .rdSelect => [base + 4, 1]
  | .wrSelect v => [base + 4, 2, v]
  | .advance n => 0 :: 3 :: leBytes 8 n
  | .registerPulse cb delay periodic period =>
    0 :: 4 :: BitVec.ofNat 8 (callbackCodes.idxOf cb) :: byteOfBool periodic :: (leBytes 8 delay ++ leBytes 8 period)
  | .expire h => 0 :: 5 :: leBytes 8 h
  | .dispatch => [0, 6]
  | .goto target delay => 0 :: 7 :: BitVec.ofNat 8 (opStatusCodes.idxOf target) :: leBytes 8 delay

/-- The length in bytes of the longest instruction (REGISTER_PULSE). -/
def longestInstr : Nat := 20

/-- The bytes of a table word of `nbits` bits, padded with zeros to the longest instruction. -/
def layoutWord (nbits w : Nat) : List Byte :=
  leBytes (nbits / 8) w ++ List.replicate (longestInstr - nbits / 8) 0

/-- The instruction the decoder reads from a table word, at the default port base. -/
def decodeTableWord (nbits w : Nat) : Option Instr :=
  (decode Config.default.portBase (layoutWord nbits w)).toOption

end Sys2Proof
end

