-- ==== Sys2Proof/Machine/State.lean ====
section
/-! DEFINITION. The state of the block as plain data (R30 to R73), the reasons a step can stop, and the power-on
state (R442). Only types and the power-on value stand here; every operation stands in the files after it. -/

namespace Sys2Proof.Machine

/-! ### Media (R68, R69) -/

/-- The bytes of one track buffer, as (raw position, byte) pairs: positions strictly rising, and no entry equal to what
an unlisted position reads as (`blankByte`). The form is `Memory.wf`. -/
abbrev Memory := List Host.Cell

/-- What an unlisted raw position of a track reads as: 0x00, the byte of an unformatted track (R342). -/
def blankByte : Byte := 0x00

/-- An entry of a track's IDAM index: the raw position of a 0xFE mark byte and its density (R69). -/
structure IdamEntry where
  offset : Nat
  dd : Bool
deriving DecidableEq, Repr

/-- A track: `len` raw bytes and the IDAM index (R69). -/
structure Track where
  /-- L, the number of raw bytes. -/
  len : Nat
  /-- The raw bytes. -/
  data : Memory
  /-- The IDAM index. -/
  index : List IdamEntry
deriving DecidableEq, Repr

/-- A medium, also called Floppy or DiskImage (R68). -/
structure Medium where
  tracksPerSide : Nat
  /-- 1 or 2. -/
  sides : Nat
  /-- The 'single-byte' density encoding. -/
  singleByte : Bool
  /-- The declared track length, header included. -/
  declLen : Nat
  writeProtected : Bool
  /-- 'changed since load' (R70). -/
  changed : Bool
  /-- The opaque mounted-file path. -/
  path : String
  /-- `track(t, side)` stands at index `t × sides + side`, the file's order (R360). -/
  tracks : List Track
deriving DecidableEq, Repr

/-- A drive: the head's position and the mounted medium (R65, R66). -/
structure Drive where
  physTrack : Nat
  medium : Option Medium
deriving DecidableEq, Repr

/-! ### The virtual clock (R30 to R36) -/

/-- A pulse entry (R32). -/
structure Pulse where
  handle : Nat
  trigger : Nat
  cb : Callback
  periodic : Bool
  period : Nat
  expired : Bool
  seq : Nat
deriving DecidableEq, Repr

/-- The virtual clock: the tick counter, the pulse entries in registration order, and the counters (R30, R32, R33). -/
structure Clock where
  ticks : Nat
  pulses : List Pulse
  nextSeq : Nat
  /-- The source of fresh handles: handles are unique and never reused (R32; the counter is the model's own,
  assumption 3). -/
  nextHandle : Nat
deriving DecidableEq, Repr

/-! ### The controller (R37 to R63) -/

/-- Which status layout is shown (R46). -/
inductive StatusMode where
  | typeI | typeII_III
deriving DecidableEq, Repr

/-- The direction of a head step: in is toward higher tracks (R61). -/
inductive StepDir where
  | inward | outward
deriving DecidableEq, Repr

/-- The FDC's registers, flags, selection and sequencer state (R37 to R63). -/
structure Fdc where
  /-- CR, the command register (R37). -/
  cr : Byte
  /-- TR, the track register (R38). -/
  tr : Byte
  /-- SR, the sector register (R39). -/
  sr : Byte
  /-- DR, the data register (R40). -/
  dr : Byte
  /-- A command is in progress (R42). -/
  busy : Bool
  /-- The data-request flag (R43). -/
  drq : Bool
  /-- The seek-error flag, shown as record-not-found by Type II and III (R44). -/
  seekErr : Bool
  /-- The CRC-error flag (R45). -/
  crcErr : Bool
  /-- The lost-data flag (R45). -/
  lostData : Bool
  /-- The write-protected protocol-error flag (R45). -/
  wpErr : Bool
  /-- Read Sector met a deleted data mark (R46). -/
  recordType : Bool
  /-- The h flag of the last Type I command (R46). -/
  headLoaded : Bool
  /-- The status layout (R46). -/
  statusMode : StatusMode
  /-- The INTRQ line (R48). -/
  intrq : Bool
  /-- The CPU wait-state request (R50). -/
  waitReq : Bool
  /-- The selected drive (R51). -/
  selDrive : Option (Fin 4)
  /-- The side select, true for side 1 (R52). -/
  side : Bool
  /-- The density select, true for double density (R53). -/
  dd : Bool
  /-- The sequencer state (R55). -/
  op : OpStatus
  /-- The command kind decoded from CR (R56). -/
  cmd : CmdKind
  /-- The handle of the pending FdcStep pulse (R57). -/
  cmdPulse : Option Nat
  /-- The raw position of the head (R58). -/
  cursor : Nat
  /-- The tick at which the current ID search began (R59). -/
  searchStart : Nat
  /-- A field-matching ID with a bad CRC was met (R59). -/
  crcSeen : Bool
  /-- The ID field being read (R59). -/
  idBuf : Vector Byte 6
  /-- The next index in `idBuf` (R59). -/
  idIdx : Nat
  /-- The running CRC (R60). -/
  crc : Half
  /-- The byte counter of the current state (R60). -/
  count : Nat
  /-- The current sector length (R60). -/
  secLen : Nat
  /-- The last three logical bytes, newest last (R60). -/
  recent : Vector Byte 3
  /-- The steps issued by the current command (R61). -/
  stepsDone : Nat
  /-- The direction of the last step (R61). -/
  lastDir : StepDir
  /-- 'CRC-reset-allowed' (R62). -/
  crcResetAllowed : Bool
  /-- The low CRC byte still to be written (R62). -/
  pendingCrcLo : Option Byte
  /-- The IDAM entries Write Track has written so far (R62). -/
  newIndex : List IdamEntry
  /-- Logical byte slots since the index pulse (R62). -/
  slot : Nat
  /-- The handle of the periodic IndexIrq pulse armed by I2 (R63). -/
  indexPulse : Option Nat
  /-- The not-ready-to-ready condition is armed (R63). -/
  armI0 : Bool
  /-- The ready-to-not-ready condition is armed (R63). -/
  armI1 : Bool
deriving DecidableEq, Repr

/-! ### Inputs: the parameters of the step (R72) -/

/-- A sector descriptor's data-mark type other than none (R325). -/
inductive DataMark where
  | f8 | f9 | fa | fb
deriving DecidableEq, Repr

/-- A sector descriptor (R325). -/
structure SectorDescriptor where
  track : Byte
  side : Byte
  sector : Byte
  sizeCode : Byte
  dd : Bool
  dam : Option DataMark
  idCrcErr : Bool
  dataCrcErr : Bool
  payload : List Byte
deriving DecidableEq, Repr

/-- What the Host does next: an instruction as bytes (Decode.lean), or one of the two operations of the public contract
that no port carries (R170): SelectDrive and the hardware reset line. -/
inductive HostItem where
  | word (bytes : List Byte)
  | selectDrive (number : Fin 4) (side : Bool)
  | resetLine
deriving DecidableEq, Repr

/-- An Operator action (R373, R372, R367, R369), or a hardware reset from outside the Host (R440). -/
inductive OperatorAction where
  /-- Mount a medium (R375). -/
  | mount (n : Fin 4) (m : Medium)
  /-- Load a disk-image file with its path and mount it (R366, R367). -/
  | loadImage (n : Fin 4) (path : String) (file : List Byte)
  /-- Eject the medium (R375). -/
  | eject (n : Fin 4)
  /-- Set or clear write-protect (R372). -/
  | setWriteProtect (n : Fin 4) (b : Bool)
  /-- Set the mounted-file path (R372). -/
  | setPath (n : Fin 4) (path : String)
  /-- Descriptor-level write of one sector of track (t, side) (R336). -/
  | writeDescriptor (n : Fin 4) (t : Nat) (side : Bool) (d : SectorDescriptor)
  /-- Save to a file (R368, R369). -/
  | save (n : Fin 4)
  /-- Hardware reset (R440). -/
  | reset
deriving DecidableEq, Repr

/-! ### Why a step stops -/

/-- The programming errors of R403, exactly five. -/
inductive FaultReason where
  /-- The command pulse fired in a state with no handler for the family (R148). -/
  | noTransition
  /-- The command pulse fired with busy = 0 (R148). -/
  | staleCommandPulse
  /-- A periodic pulse registered with period 0 (R143). -/
  | zeroPeriod
  /-- A periodic pulse registered with delay 0 (R143). -/
  | zeroDelayPeriodic
  /-- An Advance would reach 2^64 ticks (R141). -/
  | clockOverflow
deriving DecidableEq, Repr

/-- The faults a step can answer. -/
inductive Fault where
  /-- The block carries the permanent fault mark of a programming error: it takes no step (R403, R35). Raised by every
  instruction and every action once the mark is set. Safe: it is what the spec says. -/
  | fatal (r : FaultReason)
deriving DecidableEq, Repr

/-- The refusals a step can answer. -/
inductive Refusal where
  /-- No meaning yet for the instruction. No arm of exec answers it. Safe. -/
  | notModelled (mnemonic : String)
  /-- The Host's script holds nothing: a run is a finite sequence chosen by the Host, and it ends here (R8). Raised by
  the fetch. Safe. -/
  | hostSilent
  /-- The bytes the Host issued are no instruction of the block (R94, R110). Raised by the fetch. Safe. -/
  | undecodable (e : DecodeError)
  /-- A mounted medium does not have the form of R68 and R69. Raised by mount. Safe. -/
  | illFormedMedium
  /-- An Operator action on a drive that the controller does not have, P_NUM_DRIVES being less than 4 (assumption 25).
  Raised by the Operator actions. Safe. -/
  | noSuchDrive
  /-- A save or a descriptor-level write of a drive with no such medium, track or sector: the spec gives it no effect.
  Raised by the Operator actions. Safe. -/
  | nothingToActOn
  /-- Encode is refused for mixed densities, a wrong payload length or a list that does not fit (R330, R334).
  Raised by the descriptor-level write. Safe. -/
  | encodeRefused
deriving DecidableEq, Repr

/-! ### The state -/

/-- The whole state: the record `blk` of 10_state.md, then the inputs and outputs of the step (assumption 2). -/
structure State where
  /-- The parameters of R9; never changed by a step. -/
  cfg : Config
  /-- `clk` (R30 to R33). -/
  clk : Clock
  /-- `fdc` (R37 to R63). -/
  fdc : Fdc
  /-- `drive[0..3]` (R64). -/
  drives : Vector Drive 4
  /-- `blk.motorOn` (R54). -/
  motorOn : Bool
  /-- `blk.motorPulse` (R54). -/
  motorPulse : Option Nat
  /-- `blk.motorIrq`, the motor-off line (R49). -/
  motorIrq : Bool
  /-- `blk.lastReady` (R54). -/
  lastReady : Bool
  /-- `blk.fault` (R35). -/
  fault : Option FaultReason
  /-- What the Host does next (R72; the model's own field). -/
  script : List HostItem
  /-- What the Operator does next, each action with the tick from which it may happen (R72; the model's own field). -/
  operator : List (Nat × OperatorAction)
  /-- The Host has made a port access since the last Advance: it is inside a unit (R141; the model's own field). -/
  inUnit : Bool
  /-- The byte the last port read returned to the Host (R170; the model's own field). -/
  hostData : Byte
  /-- The handle the last REGISTER_PULSE returned (R143; the model's own field). -/
  hostHandle : Nat
  /-- The bytes of the last saved disk-image file (R80 (c), R368; the model's own field). -/
  savedImage : List Byte
deriving DecidableEq, Repr

/-- The controller after power-on or Reset() (R440). -/
def Fdc.reset : Fdc where
  cr := 0x03
  tr := 0x00
  sr := 0x01
  dr := 0x00
  busy := false
  drq := false
  seekErr := false
  crcErr := false
  lostData := false
  wpErr := false
  recordType := false
  headLoaded := false
  statusMode := .typeI
  intrq := false
  waitReq := false
  selDrive := some 0
  side := false
  dd := false
  op := .opDone
  cmd := .restore
  cmdPulse := none
  cursor := 0
  searchStart := 0
  crcSeen := false
  idBuf := Vector.replicate 6 0
  idIdx := 0
  crc := 0
  count := 0
  secLen := 0
  recent := Vector.replicate 3 0
  stepsDone := 0
  lastDir := .inward
  crcResetAllowed := false
  pendingCrcLo := none
  newIndex := []
  slot := 0
  indexPulse := none
  armI0 := false
  armI1 := false

/-- The power-on state of R442: the Reset() values, the clock at 0 with no pulse, every drive empty, no fault. The
fields that are the model's own start empty or at 0 (DESIGN CHOICE, assumption 2). -/
def State.reset : State where
  cfg := Config.default
  clk := { ticks := 0, pulses := [], nextSeq := 0, nextHandle := 0 }
  fdc := Fdc.reset
  drives := Vector.replicate 4 { physTrack := 0, medium := none }
  motorOn := false
  motorPulse := none
  motorIrq := false
  lastReady := false
  fault := none
  script := []
  operator := []
  inUnit := false
  hostData := 0
  hostHandle := 0
  savedImage := []

end Sys2Proof.Machine
end

