-- ==== Sys2Proof/Machine/Memory.lean ====
section
/-! DEFINITION. The track buffer as memory: reading and writing one byte, keeping the canonical form (R69, R83, R84,
R288, R292). -/

namespace Sys2Proof.Machine

/-- The byte at a raw position; an unlisted position reads as `blankByte`. -/
def Memory.read : Memory → Nat → Byte
  | [], _ => blankByte
  | (k, v) :: rest, a => if k = a then v else Memory.read rest a

/-- A byte put before the rest, unless it is what an unlisted position reads as. -/
def Memory.push (a : Nat) (v : Byte) (rest : Memory) : Memory :=
  if v = blankByte then rest else (a, v) :: rest

/-- Store a byte at a raw position. Storing `blankByte` removes the entry. -/
def Memory.write : Memory → Nat → Byte → Memory
  | [], a, v => Memory.push a v []
  | (k, w) :: rest, a, v =>
    if a < k then Memory.push a v ((k, w) :: rest)
    else if a = k then Memory.push a v rest
    else (k, w) :: Memory.write rest a v

/-- The positions below `n` only. -/
def Memory.below (n : Nat) (m : Memory) : Memory := m.filter fun c => decide (c.1 < n)

/-- The canonical form from position `lo` on: strictly rising, no blank entry. -/
def Memory.wfFrom : Nat → Memory → Bool
  | _, [] => true
  | lo, (k, v) :: rest => decide (lo ≤ k) && decide (v ≠ blankByte) && Memory.wfFrom (k + 1) rest

/-- The canonical form. -/
def Memory.wf (m : Memory) : Bool := Memory.wfFrom 0 m

/-- The canonical memory holding `bytes` from position `a` on. -/
def Memory.ofBytes : Nat → List Byte → Memory
  | _, [] => []
  | a, v :: rest => Memory.push a v (Memory.ofBytes (a + 1) rest)

/-- The `n` bytes from position `a` on. -/
def Memory.bytes (m : Memory) (a n : Nat) : List Byte := (List.range n).map fun i => m.read (a + i)

end Sys2Proof.Machine
end

