-- ==== Sys2Proof/Machine/Operands.lean ====
section
/-! DEFINITION. Every operand form: the derived quantities of R10, the rotation (R86, R87), the command's flag fields
(R113 to R116), and the operands assembled from other bytes (R118). -/

namespace Sys2Proof.Machine

/-! ### Derived quantities (R10) -/

/-- TPS, ticks per second. -/
def tps (c : Config) : Nat := c.cpuHz * c.ticksPerTstate

/-- `usToTicks(us)`. -/
def usToTicks (c : Config) (us : Nat) : Nat := us * tps c / 1000000

/-- TPR, ticks per revolution. -/
def tpr (c : Config) : Nat := tps c * 60 / c.rpm

/-- `Tb(dd)`, ticks per logical byte. -/
def byteTicks (c : Config) (dd : Bool) : Nat := usToTicks c (if dd then c.byteUsDd else c.byteUsSd)

/-- `Nrev(dd)`, logical byte slots in one revolution: the quotient rounded up (R10, R11). -/
def slotsPerRev (c : Config) (dd : Bool) : Nat := (tpr c + byteTicks c dd - 1) / byteTicks c dd

/-- `tstates`, the elapsed T-states (R31). -/
def State.tstates (s : State) : Nat := s.clk.ticks / s.cfg.ticksPerTstate

/-! ### Rotation (R86, R87) -/

/-- `angle(t)`. -/
def angle (c : Config) (t : Nat) : Nat := (t % tpr c) * c.angleScale / tpr c

/-- `ticksToIndex(t)`. -/
def ticksToIndex (c : Config) (t : Nat) : Nat := (tpr c - t % tpr c) % tpr c

/-! ### The command's flag fields, read from CR (R113 to R116) -/

/-- `h = CR[3]` of Type I. -/
def State.flagH (s : State) : Bool := s.fdc.cr.getLsbD 3

/-- `V = CR[2]` of Type I. -/
def State.flagV (s : State) : Bool := s.fdc.cr.getLsbD 2

/-- `u = CR[4]` of Step, Step In and Step Out. -/
def State.flagU (s : State) : Bool := s.fdc.cr.getLsbD 4

/-- `m = CR[4]` of Type II. -/
def State.flagM (s : State) : Bool := s.fdc.cr.getLsbD 4

/-- `S = CR[3]` of Type II. -/
def State.flagS (s : State) : Bool := s.fdc.cr.getLsbD 3

/-- `E = CR[2]` of Types II and III. -/
def State.flagE (s : State) : Bool := s.fdc.cr.getLsbD 2

/-- `C = CR[1]` of Type II. -/
def State.flagC (s : State) : Bool := s.fdc.cr.getLsbD 1

/-- `a0 = CR[0]` of Write Sector. -/
def State.flagA0 (s : State) : Bool := s.fdc.cr.getLsbD 0

/-! ### Operands from other bytes (R118) -/

/-- `stepDelay()`, the step time of rate `CR[1:0]` (R200). -/
def State.stepDelay (s : State) : Nat := usToTicks s.cfg (s.cfg.stepUs[(rateField s.fdc.cr).toFin])

/-- The head-settle delay of V and E (R118). -/
def State.settleDelay (s : State) : Nat := usToTicks s.cfg s.cfg.settleUs

/-- `b := Tb(fdc.dd)`, one byte-time at the controller's density (43_type2.md, notation). -/
def State.byteDelay (s : State) : Nat := byteTicks s.cfg s.fdc.dd

/-- `secLen = 128 << (N & 3)` (R118). -/
def sectorLength (sizeCode : Byte) : Nat := 128 <<< (sizeCode.toNat % 4)

/-- `damLimit(dd)` (R241). -/
def damLimit (c : Config) (dd : Bool) : Nat := if dd then c.damLimitDd else c.damLimitSd

/-- `wsWindow(dd)` (R251). -/
def wsWindow (c : Config) (dd : Bool) : Nat := if dd then c.wsWindowDd else c.wsWindowSd

/-- `wsZeros(dd)` (R252). -/
def wsZeros (c : Config) (dd : Bool) : Nat := if dd then c.wsZerosDd else c.wsZerosSd

/-- `seed(dd)` (R323). -/
def seedOf (c : Config) (dd : Bool) : Half := if dd then c.seedDd else c.seedSd

end Sys2Proof.Machine
end

