-- ==== Sys2Proof/Machine/Crc.lean ====
section
/-! DEFINITION. CRC-16/CCITT (R320, R321). -/

namespace Sys2Proof.Machine

/-- One bit of R321: shift left, and XOR the polynomial when the top bit was 1. -/
def crcBit (poly c : Half) : Half := if c.getLsbD 15 then (c <<< 1) ^^^ poly else c <<< 1

/-- `crcUpdate(c, v)` of R321: the byte enters at the top, most significant bit first. -/
def crcUpdate (poly c : Half) (v : Byte) : Half :=
  let c0 := c ^^^ (v ++ (0x00 : Byte))
  crcBit poly (crcBit poly (crcBit poly (crcBit poly (crcBit poly (crcBit poly (crcBit poly (crcBit poly c0)))))))

/-- `crc(seed, bytes)` of R321. -/
def crcBytes (poly seed : Half) (bytes : List Byte) : Half := bytes.foldl (crcUpdate poly) seed

end Sys2Proof.Machine
end

