-- ==== Sys2Proof/Machine/Ops.lean ====
section
/-! DEFINITION. The named operations over the state: drives and media, the current track and its bytes, the head, the
cursor, the pulse set, and the block's two exceptional entries (a Fatal, R403; the completion with its interrupt,
R410). The block takes no trap and has no return from one (R414). -/

namespace Sys2Proof.Machine

/-! ### Drives and media -/

/-- `drive[n]`. -/
def State.drive (s : State) (n : Fin 4) : Drive := s.drives[n]

/-- Replace `drive[n]`. -/
def State.setDrive (s : State) (n : Fin 4) (d : Drive) : State := { s with drives := s.drives.set n d }

/-- Replace the controller. -/
def State.withFdc (s : State) (f : Fdc) : State := { s with fdc := f }

/-- The index of `track(t, side)` in the medium's list, for a position inside the geometry (R68, R360). -/
def Medium.trackIndex (m : Medium) (t : Nat) (side : Bool) : Option Nat :=
  if t < m.tracksPerSide ∧ side.toNat < m.sides then some (t * m.sides + side.toNat) else none

/-- Track lookup by (track, side), none outside the geometry (R68, R370). -/
def Medium.track (m : Medium) (t : Nat) (side : Bool) : Option Track :=
  match m.trackIndex t side with
  | some i => m.tracks[i]?
  | none => none

/-- Replace `track(t, side)`; a position outside the geometry changes nothing. -/
def Medium.setTrack (m : Medium) (t : Nat) (side : Bool) (T : Track) : Medium :=
  match m.trackIndex t side with
  | some i => { m with tracks := m.tracks.set i T }
  | none => m

/-- `curMedium`, the medium in the selected drive (R82). -/
def State.curMedium (s : State) : Option Medium :=
  match s.fdc.selDrive with
  | some n => (s.drive n).medium
  | none => none

/-- `curTrack()` of R81. -/
def State.curTrack (s : State) : Option Track :=
  match s.fdc.selDrive with
  | some n =>
    match (s.drive n).medium with
    | some m => m.track (s.drive n).physTrack s.fdc.side
    | none => none
  | none => none

/-- Replace the current track, and set its medium's changed flag to `changed`. No effect when the track is absent. -/
def State.setCurTrack (s : State) (T : Track) (changed : Bool) : State :=
  match s.fdc.selDrive with
  | some n =>
    match (s.drive n).medium with
    | some m =>
      s.setDrive n { (s.drive n) with
        medium := some { m.setTrack (s.drive n).physTrack s.fdc.side T with changed := changed } }
    | none => s
  | none => s

/-- The changed flag of the current medium; false when there is none. -/
def State.curChanged (s : State) : Bool :=
  match s.curMedium with
  | some m => m.changed
  | none => false

/-- `wp(n)`, the drive's write-protect sense (R66). -/
def State.wp (s : State) (n : Fin 4) : Bool :=
  match (s.drive n).medium with
  | some m => m.writeProtected
  | none => false

/-- `wp(selDrive)`, with `wp(none) = 0` (R181). -/
def State.wpSel (s : State) : Bool :=
  match s.fdc.selDrive with
  | some n => s.wp n
  | none => false

/-- `ready()` (R54). -/
def State.ready (s : State) : Bool :=
  match s.fdc.selDrive with
  | some n => (s.drive n).medium.isSome && s.motorOn
  | none => false

/-- `trk0()`, the track-zero signal (R200). -/
def State.trk0 (s : State) : Bool :=
  match s.fdc.selDrive with
  | some n => (s.drive n).physTrack == 0
  | none => false

/-! ### Bytes of the current track -/

/-- The stride `s`, raw bytes per logical byte (R82). -/
def State.stride (s : State) : Nat :=
  if (match s.curMedium with | some m => m.singleByte | none => false) then 1
  else if s.fdc.dd then 1 else 2

/-- `L()`, the track length seen by the head (R85). -/
def State.trackLen (s : State) : Nat :=
  match s.curTrack with
  | some T => T.len
  | none => slotsPerRev s.cfg s.fdc.dd * s.stride

/-- `MemRead(pos, 1)` (R83). -/
def State.memRead (s : State) (pos : Nat) : Byte :=
  match s.curTrack with
  | some T => T.data.read (pos % T.len)
  | none => s.cfg.pad

/-- `MemWrite(pos, 1, v)` (R84). -/
def State.memWrite (s : State) (pos : Nat) (v : Byte) : State :=
  match s.curTrack with
  | some T => s.setCurTrack { T with data := T.data.write (pos % T.len) v } true
  | none => s

/-- `syncCursor()` (R88). -/
def State.syncCursor (s : State) : State :=
  s.withFdc { s.fdc with cursor := angle s.cfg s.clk.ticks * s.trackLen / s.cfg.angleScale }

/-- The last three logical bytes with a new one at the end (R60, R89). -/
def shiftRecent (recent : Vector Byte 3) (v : Byte) : Vector Byte 3 := #v[recent[1], recent[2], v]

/-- Of the index entries, the one with the least offset. -/
def leastEntry : List IdamEntry → Option IdamEntry
  | [] => none
  | e :: rest =>
    match leastEntry rest with
    | some e' => if e'.offset < e.offset then some e' else some e
    | none => some e

/-- The IDAM entry that the logical byte at the cursor covers, at the controller's density and with its byte still
0xFE (R89). -/
def State.idamHit (s : State) : Option IdamEntry :=
  match s.curTrack with
  | some T =>
    let covers := (List.range s.stride).map fun i => (s.fdc.cursor + i) % T.len
    leastEntry (T.index.filter fun e => covers.contains e.offset && e.dd == s.fdc.dd && T.data.read e.offset == 0xFE)
  | none => none

/-- The byte and the hit that `readLogical()` returns (R89). -/
def State.logicalByte (s : State) : Byte × Bool :=
  match s.idamHit with
  | some _ => (0xFE, true)
  | none => (s.memRead s.fdc.cursor, false)

/-- The state that `readLogical()` leaves: the cursor past the logical byte, realigned on a hit, and the byte among the
recent ones (R89). -/
def State.afterRead (s : State) : State :=
  let start := match s.idamHit with | some e => e.offset | none => s.fdc.cursor
  s.withFdc { s.fdc with
    cursor := (start + s.stride) % s.trackLen
    recent := shiftRecent s.fdc.recent s.logicalByte.1 }

/-- `MemWrite` at each of `k` raw positions from `pos` on. -/
def State.memWriteRun (s : State) (pos : Nat) (v : Byte) : Nat → State
  | 0 => s
  | k + 1 => (s.memWriteRun pos v k).memWrite (pos + k) v

/-- `writeLogical(v)` (R90). -/
def State.writeLogical (s : State) (v : Byte) : State :=
  let s' := s.memWriteRun s.fdc.cursor v s.stride
  s'.withFdc { s'.fdc with cursor := (s.fdc.cursor + s.stride) % s.trackLen }

/-- The byte at raw position `pos` of `track(t, side)` of drive `n`'s medium, none where there is no such byte. The
model's read of one byte, for statements about what stays unchanged. -/
def State.trackByte (s : State) (n : Fin 4) (t : Nat) (side : Bool) (pos : Nat) : Option Byte :=
  match (s.drive n).medium with
  | some m =>
    match m.track t side with
    | some T => if pos < T.len then some (T.data.read pos) else none
    | none => none
  | none => none

/-! ### The head (R200) -/

/-- A head position one step in the given direction, clamped to `[0, P_MAX_TRACK]`. -/
def clampStep (maxTrack p : Nat) : StepDir → Nat
  | .inward => min (p + 1) maxTrack
  | .outward => min (p - 1) maxTrack

/-- `stepHead(dir)`: only the selected drive's head moves. -/
def State.stepHead (s : State) (dir : StepDir) : State :=
  match s.fdc.selDrive with
  | some n => s.setDrive n { (s.drive n) with physTrack := clampStep s.cfg.maxTrack (s.drive n).physTrack dir }
  | none => s

/-- `(TR + dir) mod 256`. -/
def stepTr (tr : Byte) : StepDir → Byte
  | .inward => tr + 1
  | .outward => tr - 1

/-! ### The pulse set (R32, R143, R144) -/

/-- Take a fresh handle. -/
def State.takeHandle (s : State) : State := { s with clk := { s.clk with nextHandle := s.clk.nextHandle + 1 } }

/-- The entry part of RegisterPulse: insert an entry with the given handle, `delay` ticks ahead (R143). -/
def State.insertPulse (s : State) (handle : Nat) (cb : Callback) (delay : Nat) (periodic : Bool) (period : Nat) : State :=
  { s with clk := { s.clk with
      pulses := s.clk.pulses ++ [{ handle := handle, trigger := s.clk.ticks + delay, cb := cb, periodic := periodic,
                                   period := period, expired := false, seq := s.clk.nextSeq }]
      nextSeq := s.clk.nextSeq + 1 } }

/-- `Expire(h)` (R144). -/
def State.expirePulse (s : State) (h : Nat) : State :=
  { s with clk := { s.clk with
      pulses := s.clk.pulses.map fun e => if e.handle = h then { e with expired := true } else e } }

/-- `Expire(h)` of an optional handle. -/
def State.expireOpt (s : State) : Option Nat → State
  | some h => s.expirePulse h
  | none => s

/-! ### Fatal, the interrupt lines and completion -/

/-- `raise Fatal(reason)`: the permanent fault mark (R403). -/
def State.raiseFatal (s : State) (r : FaultReason) : State := { s with fault := some r }

/-- `Latch(INTRQ)`: the line goes to 1 and releases a held Host (R411, R456). -/
def State.latchIntrq (s : State) : State := s.withFdc { s.fdc with intrq := true, waitReq := false }

/-- `Unlatch(INTRQ)` (R411). -/
def State.unlatchIntrq (s : State) : State := s.withFdc { s.fdc with intrq := false }

/-- `complete()` (R410). -/
def State.complete (s : State) : State :=
  s.withFdc { s.fdc with busy := false, op := .opDone, intrq := true, waitReq := false }

/-- `readyEdge()` (R306). -/
def State.readyEdge (s : State) : State :=
  let r := s.ready
  let fires := (s.fdc.armI1 && s.lastReady && !r) || (s.fdc.armI0 && !s.lastReady && r)
  { (if fires then s.latchIntrq else s) with lastReady := r }

end Sys2Proof.Machine
end

