-- ==== Sys2Proof/Machine/Flags.lean ====
section
/-! DEFINITION. Every flag computation: the one-error rule (R47), DRQ (R456), the flags Prepare clears (R201, R230), and
the status composition (R181). -/

namespace Sys2Proof.Machine

/-- The protocol-error flags, the set E of R47. -/
inductive ErrorFlag where
  | seekErr | crcErr | lostData | wpErr
deriving DecidableEq, Repr

/-- Some flag of E is 1. -/
def Fdc.anyError (f : Fdc) : Bool := f.seekErr || f.crcErr || f.lostData || f.wpErr

/-- Set one flag. -/
def Fdc.markError (f : Fdc) : ErrorFlag → Fdc
  | .seekErr => { f with seekErr := true }
  | .crcErr => { f with crcErr := true }
  | .lostData => { f with lostData := true }
  | .wpErr => { f with wpErr := true }

/-- `setError(f)`: the first error a command detects is the one it reports (R47). -/
def State.setError (s : State) (e : ErrorFlag) : State :=
  if s.fdc.anyError then s else s.withFdc (s.fdc.markError e)

/-- `raiseDrq()` (43_type2.md notation, R456). -/
def State.raiseDrq (s : State) : State := s.withFdc { s.fdc with drq := true, waitReq := false }

/-- `setError(lostData)` when the previous byte was not taken or not supplied: when DRQ is still 1. -/
def State.noteLost (s : State) : State := if s.fdc.drq then s.setError .lostData else s

/-- `deliver(v)`, shared by every read path (R244). -/
def State.deliver (s : State) (v : Byte) : State :=
  let s1 := s.noteLost
  (s1.withFdc { s1.fdc with dr := v }).raiseDrq

/-- What every Prepare does first: busy on, DRQ and the error flags off (R201, R230). -/
def Fdc.begin (f : Fdc) : Fdc :=
  { f with busy := true, drq := false, seekErr := false, crcErr := false, lostData := false, wpErr := false,
           recordType := false }

/-- Bit 6 of the status: the drive's write-protect sense, or the write-protect error (R181). -/
def State.statusWp (s : State) : Bool :=
  match s.fdc.statusMode with
  | .typeI => s.wpSel
  | .typeII_III => s.fdc.wpErr

/-- Bit 5: HEAD LOADED or RECORD TYPE (R181). -/
def State.statusHead (s : State) : Bool :=
  match s.fdc.statusMode with
  | .typeI => s.fdc.headLoaded
  | .typeII_III => s.fdc.recordType

/-- Bit 2: TRACK 0 or LOST DATA (R181). -/
def State.statusTrk0 (s : State) : Bool :=
  match s.fdc.statusMode with
  | .typeI => s.trk0
  | .typeII_III => s.fdc.lostData

/-- Bit 1: INDEX or DRQ (R181). -/
def State.statusIndex (s : State) : Bool :=
  match s.fdc.statusMode with
  | .typeI => s.ready && decide (angle s.cfg s.clk.ticks < s.cfg.indexPpm)
  | .typeII_III => s.fdc.drq

/-- `status()` (R181): bits 7 to 0 in order. -/
def State.status (s : State) : Byte :=
  BitVec.ofBool (!s.ready) ++ BitVec.ofBool s.statusWp ++ BitVec.ofBool s.statusHead ++ BitVec.ofBool s.fdc.seekErr ++
    BitVec.ofBool s.fdc.crcErr ++ BitVec.ofBool s.statusTrk0 ++ BitVec.ofBool s.statusIndex ++ BitVec.ofBool s.fdc.busy

end Sys2Proof.Machine
end

