-- ==== Sys2Proof/Machine/TypeI.lean ====
section
/-! DEFINITION. The Type I handlers (42_type1.md). A handler ends in exactly one of: goto, complete, Fatal (R17); the
sequencer (Sequencer.lean) carries that ending out. -/

namespace Sys2Proof.Machine

/-- How a sequencer handler ends (R17), with the state at its end. -/
inductive HandlerEnd where
  | goto (target : OpStatus) (delay : Nat) (s : State)
  | complete (s : State)
  | fatal (r : FaultReason) (s : State)
deriving DecidableEq, Repr

/-- What Prepare of a Type I command does to the controller before it dispatches on the command (R201). -/
def Fdc.beginTypeI (f : Fdc) : Fdc :=
  { f.begin with statusMode := .typeI, headLoaded := f.cr.getLsbD 3, stepsDone := 0 }

/-- The command-specific part of Prepare (R201). -/
def Fdc.prepareTypeI (f : Fdc) : Fdc :=
  match f.cmd with
  | .restore => { f with tr := 0xFF, dr := 0x00 }
  | .stepIn => { f with lastDir := .inward }
  | .stepOut => { f with lastDir := .outward }
  | _ => f

/-- `on Prepare` for Type I (R201). -/
def onPrepareTypeI (s : State) : HandlerEnd := .goto .typeIStep 0 (s.withFdc s.fdc.beginTypeI.prepareTypeI)

/-- `on TypeIStep` for Restore (R202). -/
def onRestoreStep (s : State) : HandlerEnd :=
  if s.trk0 then .goto .checkVerify 0 (s.withFdc { s.fdc with tr := 0 })
  else if s.fdc.stepsDone = s.cfg.restoreLimit then .goto .nmi 0 (s.setError .seekErr)
  else
    let s1 := s.withFdc { s.fdc with stepsDone := s.fdc.stepsDone + 1, tr := stepTr s.fdc.tr .outward, lastDir := .outward }
    .goto .typeIStep s.stepDelay (s1.stepHead .outward)

/-- The direction of a Seek step: in when DR is above TR, compared as unsigned bytes (R203). -/
def seekDir (tr dr : Byte) : StepDir := if tr < dr then .inward else .outward

/-- `on TypeIStep` for Seek (R203). -/
def onSeekStep (s : State) : HandlerEnd :=
  if s.fdc.tr = s.fdc.dr then .goto .checkVerify 0 s
  else
    let dir := seekDir s.fdc.tr s.fdc.dr
    let s1 := s.withFdc { s.fdc with lastDir := dir }
    if dir = .outward ∧ s.trk0 then .goto .checkVerify 0 (s1.withFdc { s1.fdc with tr := 0 })
    else
      let s2 := s1.withFdc { s1.fdc with tr := stepTr s1.fdc.tr dir }
      .goto .typeIStep s.stepDelay (s2.stepHead dir)

/-- `on TypeIStep` for Step, Step In and Step Out (R204). -/
def onStepStep (s : State) : HandlerEnd :=
  if s.fdc.stepsDone = 1 then .goto .checkVerify 0 s
  else
    let dir := s.fdc.lastDir
    if dir = .outward ∧ s.trk0 then .goto .checkVerify 0 (s.withFdc { s.fdc with tr := 0 })
    else
      let s1 := s.withFdc { s.fdc with tr := if s.flagU then stepTr s.fdc.tr dir else s.fdc.tr }
      let s2 := s1.stepHead dir
      .goto .typeIStep s.stepDelay (s2.withFdc { s2.fdc with stepsDone := 1 })

/-- `on CheckVerify` (R207). -/
def onCheckVerify (s : State) : HandlerEnd :=
  if s.flagV then .goto .verifySettle s.settleDelay s else .goto .nmi 0 s

/-- `on VerifySettle` (R207). -/
def onVerifySettle (s : State) : HandlerEnd := .goto .searchStart 0 s

/-- The ID field's CRC is good: `fdc.crc = idBuf[4] << 8 | idBuf[5]` (R209, R235). -/
def State.idCrcOk (s : State) : Bool := s.fdc.crc == halfOf s.fdc.idBuf[4] s.fdc.idBuf[5]

/-- `on VerifyTrack` (R209). -/
def onVerifyTrack (s : State) : HandlerEnd :=
  if s.fdc.idBuf[0] ≠ s.fdc.tr then .goto .seekingIdam s.byteDelay s
  else if s.idCrcOk then .goto .nmi 0 s
  else .goto .seekingIdam s.byteDelay (s.withFdc { s.fdc with crcSeen := true })

/-- `on NMI`, shared by every family (R210). -/
def onNmi (s : State) : HandlerEnd := .complete s

end Sys2Proof.Machine
end

