-- ==== Sys2Proof/Machine/Search.lean ====
section
/-! DEFINITION. The machinery shared by Type I verify and Types II and III: Prepare, Delay, CheckWriteProtect and the ID
search (43_type2.md, section 1). -/

namespace Sys2Proof.Machine

/-- What Prepare of a Type II or III command does to the controller (R230). -/
def Fdc.beginTypeII (f : Fdc) : Fdc :=
  { f.begin with statusMode := .typeII_III, headLoaded := true, count := 0 }

/-- `on Prepare` for Types II and III (R230). -/
def onPrepareTypeII (s : State) : HandlerEnd :=
  let s1 := s.withFdc s.fdc.beginTypeII
  if s1.ready then .goto .delay (if s1.flagE then s1.settleDelay else 0) s1 else .goto .nmi 0 s1

/-- `on Delay`, by command (R230). -/
def onDelay (s : State) : HandlerEnd :=
  match s.fdc.cmd with
  | .readSector | .readAddress => .goto .searchStart 0 s
  | .writeSector | .writeTrack => .goto .checkWriteProtect 0 s
  | .readTrack => .goto .seekingIndexHole 0 s
  | _ => .fatal .noTransition s

/-- `on CheckWriteProtect` (R230). -/
def onCheckWriteProtect (s : State) : HandlerEnd :=
  if s.wpSel then .goto .nmi 0 (s.setError .wpErr)
  else
    match s.fdc.cmd with
    | .writeSector => .goto .searchStart 0 s
    | .writeTrack => .goto .writeTrackDrq 0 s
    | _ => .fatal .noTransition s

/-- `on SearchStart` (R231). -/
def onSearchStart (s : State) : HandlerEnd :=
  let s1 := s.withFdc { s.fdc with searchStart := s.clk.ticks, crcSeen := false, idIdx := 0 }
  .goto .seekingIdam s.byteDelay s1.syncCursor

/-- `exhausted()` (R232). -/
def State.exhausted (s : State) : Bool :=
  decide (s.cfg.revLimit * tpr s.cfg ≤ s.clk.ticks - s.fdc.searchStart)

/-- `onExhausted()` (R232). -/
def onExhausted (s : State) : HandlerEnd :=
  .goto .nmi 0 (s.setError (if s.fdc.crcSeen then .crcErr else .seekErr))

/-- `crcUpdate` at the block's polynomial. -/
def State.crcStep (s : State) (c : Half) (v : Byte) : Half := crcUpdate s.cfg.crcPoly c v

/-- The CRC of a field's mark: `crcUpdate(seed(fdc.dd), mark)` (R233, R241, R253). -/
def State.crcOfMark (s : State) (mark : Byte) : Half := s.crcStep (seedOf s.cfg s.fdc.dd) mark

/-- `on SeekingIDAM` (R233). -/
def onSeekingIdam (s : State) : HandlerEnd :=
  if s.exhausted then onExhausted s
  else
    let s1 := s.afterRead
    if s.logicalByte.2 then
      .goto .readingAddressData s.byteDelay (s1.withFdc { s1.fdc with crc := s.crcOfMark 0xFE, idIdx := 0 })
    else .goto .seekingIdam s.byteDelay s1

/-- Reading one ID byte: it goes to `idBuf[idIdx]`, the index advances, and the first four bytes enter the CRC
(R234, R271). -/
def State.readIdByte (s : State) : State :=
  let v := s.logicalByte.1
  let s1 := s.afterRead
  s1.withFdc { s1.fdc with
    idBuf := s1.fdc.idBuf.setIfInBounds s1.fdc.idIdx v
    idIdx := s1.fdc.idIdx + 1
    crc := if s1.fdc.idIdx + 1 ≤ 4 then s.crcStep s1.fdc.crc v else s1.fdc.crc }

/-- The ID's fields are those asked for: track, side when C is set, sector (R235). -/
def State.idMatches (s : State) : Bool :=
  s.fdc.idBuf[0] == s.fdc.tr && (!s.flagC || s.fdc.idBuf[1] == byteOfBool s.flagS) && s.fdc.idBuf[2] == s.fdc.sr

/-- `idCompare()` (R235). -/
def idCompare (s : State) : HandlerEnd :=
  if !s.idMatches then .goto .seekingIdam s.byteDelay s
  else if !s.idCrcOk then .goto .seekingIdam s.byteDelay (s.withFdc { s.fdc with crcSeen := true })
  else
    let s1 := s.withFdc { s.fdc with secLen := sectorLength s.fdc.idBuf[3], count := 0 }
    match s.fdc.cmd with
    | .readSector => .goto .seekingDam s.byteDelay s1
    | .writeSector => .goto .writeGap s.byteDelay s1
    | _ => .fatal .noTransition s1

/-- `on ReadingAddressData` for Type I verify, Read Sector and Write Sector (R234). -/
def onReadingAddressData (s : State) : HandlerEnd :=
  let s1 := s.readIdByte
  if s1.fdc.idIdx < 6 then .goto .readingAddressData s.byteDelay s1
  else if s1.fdc.cmd.type = .typeI then .goto .verifyTrack 0 s1
  else idCompare s1

end Sys2Proof.Machine
end

