-- ==== Sys2Proof/Machine/TypeII.lean ====
section
/-! DEFINITION. The handlers of Read Sector and Write Sector (43_type2.md, sections 2 and 3). -/

namespace Sys2Proof.Machine

/-! ### Read Sector -/

/-- A data mark value: 0xF8 to 0xFB (R242). -/
def isDataMark (v : Byte) : Bool := v == 0xF8 || v == 0xF9 || v == 0xFA || v == 0xFB

/-- A deleted data mark: 0xF8 or 0xF9 (R242). -/
def isDeletedMark (v : Byte) : Bool := v == 0xF8 || v == 0xF9

/-- Three 0xA1 sync bytes have just passed. -/
def afterSync (recent : Vector Byte 3) : Bool := recent == #v[0xA1, 0xA1, 0xA1]

/-- `on SeekingDAM` (R241). -/
def onSeekingDam (s : State) : HandlerEnd :=
  let v := s.logicalByte.1
  let s1 := s.afterRead
  let s2 := s1.withFdc { s1.fdc with count := s1.fdc.count + 1 }
  if isDataMark v && (!s.fdc.dd || afterSync s.fdc.recent) then
    .goto .readingData s.byteDelay
      (s2.withFdc { s2.fdc with recordType := isDeletedMark v, crc := s.crcOfMark v, count := 0 })
  else if damLimit s.cfg s.fdc.dd ≤ s2.fdc.count then .goto .nmi 0 (s2.setError .seekErr)
  else .goto .seekingDam s.byteDelay s2

/-- `on ReadingData` (R243). -/
def onReadingData (s : State) : HandlerEnd :=
  let v := s.logicalByte.1
  let s1 := s.afterRead
  let s2 := (s1.withFdc { s1.fdc with crc := s.crcStep s1.fdc.crc v }).deliver v
  let s3 := s2.withFdc { s2.fdc with count := s2.fdc.count + 1 }
  if s3.fdc.count < s3.fdc.secLen then .goto .readingData s.byteDelay s3
  else .goto .readCrc s.byteDelay (s3.withFdc { s3.fdc with count := 0 })

/-- `nextRecord()`, the multi-record step (R246). -/
def nextRecord (s : State) : HandlerEnd :=
  if s.flagM && !s.fdc.anyError then .goto .searchStart 0 (s.withFdc { s.fdc with sr := s.fdc.sr + 1 })
  else .goto .nmi 0 s

/-- `on ReadCRC` (R245). -/
def onReadCrc (s : State) : HandlerEnd :=
  let v := s.logicalByte.1
  let s1 := s.afterRead
  let s2 := s1.withFdc { s1.fdc with crc := s.crcStep s1.fdc.crc v, count := s1.fdc.count + 1 }
  if s2.fdc.count < 2 then .goto .readCrc s.byteDelay s2
  else if s2.fdc.crc ≠ 0 then .goto .nmi 0 (s2.setError .crcErr)
  else nextRecord s2

/-! ### Write Sector -/

/-- `on WriteGap` (R251). -/
def onWriteGap (s : State) : HandlerEnd :=
  let s1 := s.afterRead
  let s2 := s1.withFdc { s1.fdc with count := s1.fdc.count + 1 }
  let s3 := if s2.fdc.count = s2.cfg.wsDrqAt then s2.raiseDrq else s2
  if s3.fdc.count < wsWindow s.cfg s.fdc.dd then .goto .writeGap s.byteDelay s3
  else if s3.fdc.drq then .goto .nmi 0 (s3.setError .lostData)
  else .goto .writingFiller s.byteDelay (s3.withFdc { s3.fdc with count := 0 })

/-- `on WritingFiller` (R252). -/
def onWritingFiller (s : State) : HandlerEnd :=
  let s1 := s.writeLogical 0x00
  let s2 := s1.withFdc { s1.fdc with count := s1.fdc.count + 1 }
  if s2.fdc.count < wsZeros s.cfg s.fdc.dd then .goto .writingFiller s.byteDelay s2
  else .goto .writingDam s.byteDelay (s2.withFdc { s2.fdc with count := 0 })

/-- The data mark Write Sector writes: deleted when a0 = 1 (R114, R253). -/
def State.writeMark (s : State) : Byte := if s.flagA0 then 0xF8 else 0xFB

/-- `on WritingDAM` (R253). -/
def onWritingDam (s : State) : HandlerEnd :=
  if s.fdc.dd ∧ s.fdc.count < 3 then
    let s1 := s.writeLogical 0xA1
    .goto .writingDam s.byteDelay (s1.withFdc { s1.fdc with count := s1.fdc.count + 1 })
  else
    let s1 := s.writeLogical s.writeMark
    .goto .writingData s.byteDelay (s1.withFdc { s1.fdc with crc := s.crcOfMark s.writeMark, count := 0 })

/-- The byte a write path takes from the Host: DR, or 0x00 when it was not supplied (R254, R287). -/
def State.hostByte (s : State) : Byte := if s.fdc.drq then 0x00 else s.fdc.dr

/-- `on WritingData` (R254). -/
def onWritingData (s : State) : HandlerEnd :=
  let v := s.hostByte
  let s1 := s.noteLost.writeLogical v
  let s2 := s1.withFdc { s1.fdc with crc := s.crcStep s1.fdc.crc v, count := s1.fdc.count + 1 }
  if s2.fdc.count < s2.fdc.secLen then .goto .writingData s.byteDelay s2.raiseDrq
  else .goto .writeCrc s.byteDelay (s2.withFdc { s2.fdc with count := 0 })

/-- `on WriteCRC` (R256). -/
def onWriteCrc (s : State) : HandlerEnd :=
  if s.fdc.count = 0 then
    let s1 := s.writeLogical (hiByte s.fdc.crc)
    .goto .writeCrc s.byteDelay (s1.withFdc { s1.fdc with count := 1 })
  else .goto .writeTrailer s.byteDelay (s.writeLogical (loByte s.fdc.crc))

/-- `on WriteTrailer` (R256). -/
def onWriteTrailer (s : State) : HandlerEnd := nextRecord (s.writeLogical 0xFF)

end Sys2Proof.Machine
end

