-- ==== Sys2Proof/Machine/TypeIII.lean ====
section
/-! DEFINITION. The handlers of Read Address, Read Track and Write Track (44_type3.md). -/

namespace Sys2Proof.Machine

/-! ### Read Address -/

/-- `endReadAddress()` (R272). -/
def endReadAddress (s : State) : HandlerEnd :=
  let s1 := s.withFdc { s.fdc with sr := s.fdc.idBuf[0] }
  .goto .nmi 0 (if s1.idCrcOk then s1 else s1.setError .crcErr)

/-- `on ReadingAddressData` for Read Address (R271). -/
def onReadAddressByte (s : State) : HandlerEnd :=
  let s1 := s.readIdByte.deliver s.logicalByte.1
  if s1.fdc.idIdx < 6 then .goto .readingAddressData s.byteDelay s1 else endReadAddress s1

/-! ### Read Track -/

/-- `on SeekingIndexHole`, shared by Read Track and Write Track (R279). -/
def onSeekingIndexHole (s : State) : HandlerEnd :=
  let target := if s.fdc.cmd = .readTrack then OpStatus.readingTrack else .writingTrack
  .goto target (ticksToIndex s.cfg s.clk.ticks) (s.withFdc { s.fdc with cursor := 0, slot := 0 })

/-- `on ReadingTrack` (R280). -/
def onReadingTrack (s : State) : HandlerEnd :=
  let s1 := s.afterRead.deliver s.logicalByte.1
  let s2 := s1.withFdc { s1.fdc with slot := s1.fdc.slot + 1 }
  if s2.fdc.slot < slotsPerRev s.cfg s.fdc.dd then .goto .readingTrack s.byteDelay s2 else .goto .nmi 0 s2

/-! ### Write Track -/

/-- `on WriteTrackDrq`, the first-byte window (R286). The CRC preset is the rule's 0xFFFF, whatever P_SEED_SD is (DESIGN
CHOICE, assumption 27). -/
def onWriteTrackDrq (s : State) : HandlerEnd :=
  if s.fdc.count = 0 then
    let s1 := s.raiseDrq
    .goto .writeTrackDrq (s.cfg.wtWindow * s.byteDelay) (s1.withFdc { s1.fdc with count := 1 })
  else if s.fdc.drq then .goto .nmi 0 (s.setError .lostData)
  else
    .goto .seekingIndexHole 0 (s.withFdc { s.fdc with
      newIndex := [], pendingCrcLo := none, crcResetAllowed := true, crc := 0xFFFF, recent := #v[0, 0, 0] })

/-- `cap()`, the raw bytes a track of the current medium can hold (R288). -/
def State.capacity (s : State) : Nat :=
  match s.curMedium with
  | some m => m.declLen - s.cfg.trackHdr
  | none => 0

/-- One raw byte of `wtPut` on a track: overwrite inside it, append at its end, drop beyond the capacity (R288). -/
def putRaw (cap p : Nat) (v : Byte) (T : Track) : Track :=
  if p < cap then
    if p < T.len then { T with data := T.data.write p v }
    else { T with len := T.len + 1, data := T.data.write T.len v }
  else T

/-- `wtPut`'s raw bytes: `v` at each of `k` raw positions from `p` on. -/
def putRun (cap p : Nat) (v : Byte) (T : Track) : Nat → Track
  | 0 => T
  | k + 1 => putRaw cap (p + k) v (putRun cap p v T k)

/-- `wtPut(v)` (R288). -/
def State.wtPut (s : State) (v : Byte) : State :=
  let s1 :=
    match s.curTrack with
    | some T =>
      s.setCurTrack (putRun s.capacity s.fdc.cursor v T s.stride) (s.curChanged || decide (s.fdc.cursor < s.capacity))
    | none => s
  s1.withFdc { s1.fdc with cursor := s1.fdc.cursor + s.stride, recent := shiftRecent s1.fdc.recent v }

/-- `recordIdam(pos, d)` (R290). -/
def State.recordIdam (s : State) (pos : Nat) (d : Bool) : State :=
  if s.curTrack.isSome ∧ pos < s.capacity ∧ s.fdc.newIndex.length < s.cfg.idamSlots then
    s.withFdc { s.fdc with newIndex := s.fdc.newIndex ++ [{ offset := pos, dd := d }] }
  else s

/-- A mark byte that restarts the CRC in single density (R290). -/
def isSdMark (c : Byte) : Bool := isDataMark c || c == 0xFE

/-- The byte a double-density code writes: 0xF5 gives 0xA1, 0xF6 gives 0xC2, any other itself (R119, R290). -/
def ddCodeByte (c : Byte) : Byte := if c = 0xF5 then 0xA1 else if c = 0xF6 then 0xC2 else c

/-- What a double-density code does to the CRC before its byte is added: the first 0xF5 of a run presets it, any other
code allows the next preset (R290). The preset is the rule's 0xFFFF (DESIGN CHOICE, assumption 27). -/
def Fdc.ddCodeCrc (f : Fdc) (c : Byte) : Fdc :=
  if c = 0xF5 then
    if f.crcResetAllowed then { f with crc := 0xFFFF, crcResetAllowed := false } else f
  else { f with crcResetAllowed := true }

/-- What a single-density code does to the CRC before its byte is added: a mark restarts it at the rule's 0xFFFF (R290; DESIGN
CHOICE, assumption 27). -/
def Fdc.sdCodeCrc (f : Fdc) (c : Byte) : Fdc := if isSdMark c then { f with crc := 0xFFFF } else f

/-- Write one byte and add it to the CRC (R289, R290). -/
def State.wtPutCrc (s : State) (v : Byte) : State :=
  let s1 := s.wtPut v
  s1.withFdc { s1.fdc with crc := s.crcStep s1.fdc.crc v }

/-- `wtByte(c)`, the code-byte semantics of Write Track (R290, R119). -/
def State.wtByte (s : State) (c : Byte) : State :=
  if c = 0xF7 then
    let s1 := s.wtPut (hiByte s.fdc.crc)
    s1.withFdc { s1.fdc with pendingCrcLo := some (loByte s1.fdc.crc), crcResetAllowed := true }
  else if s.fdc.dd then
    let s1 := (s.withFdc (s.fdc.ddCodeCrc c)).wtPutCrc (ddCodeByte c)
    if ddCodeByte c = 0xFE ∧ afterSync s.fdc.recent then s1.recordIdam s.fdc.cursor true else s1
  else
    let s1 := (s.withFdc (s.fdc.sdCodeCrc c)).wtPutCrc c
    if c = 0xFE then s1.recordIdam s.fdc.cursor false else s1

/-- `wtCommit()` (R292). -/
def State.wtCommit (s : State) : State :=
  match s.curTrack with
  | some T =>
    let n := min (min s.fdc.cursor s.capacity) T.len
    s.setCurTrack { len := n, data := T.data.below n, index := s.fdc.newIndex } s.curChanged
  | none => s

/-- The index a Write Track cut short leaves: the new entries, then the old ones beyond the cursor whose byte is still
0xFE, cut to the slots (R293). -/
def abortedIndex (slots cursor : Nat) (newIndex : List IdamEntry) (T : Track) : List IdamEntry :=
  (newIndex ++ T.index.filter fun e =>
    decide (cursor ≤ e.offset) && decide (e.offset < T.len) && T.data.read e.offset == 0xFE).take slots

/-- `wtAbort()` (R293). -/
def State.wtAbort (s : State) : State :=
  match s.curTrack with
  | some T => s.setCurTrack { T with index := abortedIndex s.cfg.idamSlots s.fdc.cursor s.fdc.newIndex T } s.curChanged
  | none => s

/-- The end of a byte slot of Write Track: the next slot, or the commit (R287). -/
def endWriteSlot (s : State) (consumed : Bool) : HandlerEnd :=
  let s1 := s.withFdc { s.fdc with slot := s.fdc.slot + 1 }
  if s1.fdc.slot < slotsPerRev s1.cfg s1.fdc.dd then
    .goto .writingTrack s1.byteDelay (if consumed then s1.raiseDrq else s1)
  else .goto .nmi 0 s1.wtCommit

/-- `on WritingTrack`, one logical byte slot (R287). -/
def onWritingTrack (s : State) : HandlerEnd :=
  match s.fdc.pendingCrcLo with
  | some lo =>
    let s1 := s.wtPut lo
    endWriteSlot (s1.withFdc { s1.fdc with pendingCrcLo := none }) false
  | none => endWriteSlot (s.noteLost.wtByte s.hostByte) true

end Sys2Proof.Machine
end

