-- ==== Sys2Proof/Machine/Sequencer.lean ====
section
/-! DEFINITION. The command sequencer: which handler a family has for a state (R55, R148), the transition primitive
with its zero-delay chains (R147, R458), and the FdcStep callback (R148). -/

namespace Sys2Proof.Machine

/-- Run a handler only for the command kinds that have it; otherwise there is no transition (R55). -/
def onlyFor (allowed : Bool) (h : State → HandlerEnd) (s : State) : HandlerEnd :=
  if allowed then h s else .fatal .noTransition s

/-- `on Prepare` of the command's family (R201, R230). -/
def onPrepare (s : State) : HandlerEnd :=
  match s.fdc.cmd.type with
  | .typeI => onPrepareTypeI s
  | .typeII | .typeIII => onPrepareTypeII s
  | .typeIV => .fatal .noTransition s

/-- `on TypeIStep` of the command (R202 to R206). -/
def onTypeIStep (s : State) : HandlerEnd :=
  match s.fdc.cmd with
  | .restore => onRestoreStep s
  | .seek => onSeekStep s
  | .step | .stepIn | .stepOut => onStepStep s
  | _ => .fatal .noTransition s

/-- The handler `on fdc.op` of the family of `fdc.cmd`, or Fatal(NoTransition) if none exists (R148). -/
def runHandler (s : State) : HandlerEnd :=
  match s.fdc.op with
  | .prepare => onPrepare s
  | .delay => onDelay s
  | .checkWriteProtect => onlyFor (s.fdc.cmd == .writeSector || s.fdc.cmd == .writeTrack) onCheckWriteProtect s
  | .seekingIdam => onlyFor s.fdc.cmd.searches onSeekingIdam s
  | .readingAddressData =>
    if s.fdc.cmd = .readAddress then onReadAddressByte s else onlyFor s.fdc.cmd.searches onReadingAddressData s
  | .verifyTrack => onlyFor s.fdc.cmd.isTypeI onVerifyTrack s
  | .seekingDam => onlyFor (s.fdc.cmd == .readSector) onSeekingDam s
  | .readingData => onlyFor (s.fdc.cmd == .readSector) onReadingData s
  | .writingData => onlyFor (s.fdc.cmd == .writeSector) onWritingData s
  | .readCrc => onlyFor (s.fdc.cmd == .readSector) onReadCrc s
  | .writeCrc => onlyFor (s.fdc.cmd == .writeSector) onWriteCrc s
  | .nmi => onlyFor (s.fdc.cmd != .forceInterrupt) onNmi s
  | .opDone => .fatal .noTransition s
  | .typeIStep => onTypeIStep s
  | .checkVerify => onlyFor s.fdc.cmd.isTypeI onCheckVerify s
  | .verifySettle => onlyFor s.fdc.cmd.isTypeI onVerifySettle s
  | .searchStart => onlyFor s.fdc.cmd.searches onSearchStart s
  | .writeGap => onlyFor (s.fdc.cmd == .writeSector) onWriteGap s
  | .writingFiller => onlyFor (s.fdc.cmd == .writeSector) onWritingFiller s
  | .writingDam => onlyFor (s.fdc.cmd == .writeSector) onWritingDam s
  | .writeTrailer => onlyFor (s.fdc.cmd == .writeSector) onWriteTrailer s
  | .writeTrackDrq => onlyFor (s.fdc.cmd == .writeTrack) onWriteTrackDrq s
  | .seekingIndexHole => onlyFor (s.fdc.cmd == .readTrack || s.fdc.cmd == .writeTrack) onSeekingIndexHole s
  | .readingTrack => onlyFor (s.fdc.cmd == .readTrack) onReadingTrack s
  | .writingTrack => onlyFor (s.fdc.cmd == .writeTrack) onWritingTrack s

/-- The body of FdcStep up to its handler's ending (R148). -/
def fdcStepEnd (s : State) : HandlerEnd :=
  let s1 := s.withFdc { s.fdc with cmdPulse := none }
  if s1.fdc.busy then runHandler s1 else .fatal .staleCommandPulse s1

/-- `goto S after d` with `d > 0`: the command pulse is registered (R147, R143). -/
def State.gotoAfter (s : State) (d : Nat) : State :=
  let h := s.clk.nextHandle
  let s1 := (s.takeHandle).insertPulse h .fdcStep d false 0
  s1.withFdc { s1.fdc with cmdPulse := some h }

/-- `goto S after 0`: RegisterPulse's zero-delay path takes a fresh handle, inserts no entry and runs FdcStep now
(R147, R143). -/
def gotoNow (s : State) : HandlerEnd := fdcStepEnd s.takeHandle

/-- The bound on a zero-delay chain. Under legal parameters no chain is longer than 6 (R458, assumption 7). -/
def chainBound : Nat := 16

/-- Carry a handler's ending out, running zero-delay transitions in place (R147). A chain longer than the bound is the
caller error of cyclic zero-delay scheduling (R143). -/
def finish : Nat → HandlerEnd → State
  | _, .complete s => s.complete
  | _, .fatal r s => s.raiseFatal r
  | 0, .goto target d s =>
    if d = 0 then (s.withFdc { s.fdc with op := target }).raiseFatal .zeroDelayPeriodic
    else (s.withFdc { s.fdc with op := target }).gotoAfter d
  | fuel + 1, .goto target d s =>
    if d = 0 then finish fuel (gotoNow (s.withFdc { s.fdc with op := target }))
    else (s.withFdc { s.fdc with op := target }).gotoAfter d

/-- Carry an ending out. -/
def HandlerEnd.run (e : HandlerEnd) : State := finish chainBound e

/-- The FdcStep callback (R148). -/
def State.fdcStep (s : State) : State := (fdcStepEnd s).run

/-- `goto S after d` (R147). -/
def State.goto (s : State) (target : OpStatus) (d : Nat) : State := (HandlerEnd.goto target d s).run

end Sys2Proof.Machine
end

