-- ==== Sys2Proof/Machine/Scheduler.lean ====
section
/-! DEFINITION. The virtual clock: the callbacks, RegisterPulse, Expire, Dispatch and Advance (40_scheduler.md), and the
meanings of the five scheduler and sequencer primitives. -/

namespace Sys2Proof.Machine

/-- How every instruction runs: a block with the permanent fault mark takes no step (R403, R35), any other goes to the
state its operation gives. -/
def guarded (s : State) (next : State) : Host.Outcome State Fault Refusal :=
  match s.fault with
  | some r => .fault (.fatal r)
  | none => .next next

/-- The MotorOff callback (R182). -/
def State.motorOffCb (s : State) : State :=
  { s with motorPulse := none, motorOn := false, motorIrq := true }.readyEdge

/-- Invoke a callback (R148, R182, R302, R36). -/
def State.invoke (s : State) : Callback → State
  | .fdcStep => s.fdcStep
  | .motorOff => s.motorOffCb
  | .indexIrq => s.latchIntrq
  | .external => s

/-- `RegisterPulse(cb, delay, periodic, period)`; the handle it returns is the one taken, `s.clk.nextHandle` (R143). -/
def State.registerPulse (s : State) (cb : Callback) (delay : Nat) (periodic : Bool) (period : Nat) : State :=
  let s1 := s.takeHandle
  if periodic ∧ period = 0 then s1.raiseFatal .zeroPeriod
  else if delay = 0 then
    if periodic then s1.raiseFatal .zeroDelayPeriodic else s1.invoke cb
  else s1.insertPulse s.clk.nextHandle cb delay periodic period

/-! ### Dispatch (R145, R150) -/

/-- Entry `a` fires before entry `b`: the order of (trigger, seq) (R150). -/
def Pulse.before (a b : Pulse) : Bool := decide (a.trigger < b.trigger) || (a.trigger == b.trigger && decide (a.seq < b.seq))

/-- The entry that fires first. -/
def firstPulse : List Pulse → Option Pulse
  | [] => none
  | e :: rest =>
    match firstPulse rest with
    | some e' => if e'.before e then some e' else some e
    | none => some e

/-- The due entry with the least (trigger, seq), among those not expired (R145). -/
def Clock.nextDue (c : Clock) : Option Pulse :=
  firstPulse (c.pulses.filter fun e => !e.expired && decide (e.trigger ≤ c.ticks))

/-- `clk.nextTrigger`, the least trigger of the non-expired entries (R33). -/
def Clock.nextTrigger (c : Clock) : Option Nat :=
  (firstPulse (c.pulses.filter fun e => !e.expired)).map Pulse.trigger

/-- Remove every expired entry (R145). -/
def Clock.dropExpired (c : Clock) : Clock := { c with pulses := c.pulses.filter fun e => !e.expired }

/-- The pulse set after entry `e` is taken to fire: consumed, or re-armed one period later under a new sequence number
(R145). -/
def Clock.take (c : Clock) (e : Pulse) : Clock :=
  if e.periodic then
    { c with pulses := c.pulses.erase e ++ [{ e with trigger := e.trigger + e.period, seq := c.nextSeq }]
             nextSeq := c.nextSeq + 1 }
  else { c with pulses := c.pulses.erase e }

/-- Fire one due entry. -/
def State.fire (s : State) (e : Pulse) : State := { s with clk := s.clk.take e }.invoke e.cb

/-- A bound on the firings of one Dispatch: an entry due by `k` ticks fires at most `k + 1` times, because a re-arm
moves its trigger by at least one tick (R143), and a new entry is never due (R145). -/
def Clock.work (c : Clock) : Nat := (c.pulses.map fun e => c.ticks + 1 - e.trigger).sum

/-- The loop of Dispatch. It can run out of its bound only on a periodic entry of period 0, which RegisterPulse never
inserts (R143, assumption 7). A Fatal ends it (R149). -/
def dispatchLoop : Nat → State → State
  | 0, s =>
    let s1 := { s with clk := s.clk.dropExpired }
    if s1.clk.nextDue.isNone then s1 else s1.raiseFatal .zeroPeriod
  | fuel + 1, s =>
    let s1 := { s with clk := s.clk.dropExpired }
    match s1.clk.nextDue with
    | none => s1
    | some e =>
      let s2 := s1.fire e
      if s2.fault.isSome then s2 else dispatchLoop fuel s2

/-- `Dispatch()` (R145). -/
def State.dispatchDue (s : State) : State := dispatchLoop s.clk.work s

/-! ### Advance (R141) -/

/-- The Host is held: the wait state is on and the Host is not already inside a unit (R141, R456). -/
def State.held (s : State) : Bool := s.fdc.waitReq && !s.inUnit

/-- The T-states the ending unit costs: the wait tick's when the Host is held, else what the Host reports (R141). -/
def State.unitCost (s : State) (n : Nat) : Nat := if s.held then s.cfg.waitTstates else n

/-- `Advance()` once the Host's port accesses have run: time passes, then Dispatch (R141). -/
def State.advanceBy (s : State) (n : Nat) : State :=
  let t := s.clk.ticks + s.unitCost n * s.cfg.ticksPerTstate
  if 2 ^ 64 ≤ t then s.raiseFatal .clockOverflow
  else { s with clk := { s.clk with ticks := t }, inUnit := false }.dispatchDue

/-! ### Meanings -/

/-- ADVANCE (R141). -/
def execAdvance (n : Nat) (s : State) : Host.Outcome State Fault Refusal := guarded s (s.advanceBy n)

/-- REGISTER_PULSE (R143). -/
def execRegisterPulse (cb : Callback) (delay : Nat) (periodic : Bool) (period : Nat) (s : State) :
    Host.Outcome State Fault Refusal :=
  guarded s { (s.registerPulse cb delay periodic period) with hostHandle := s.clk.nextHandle }

/-- EXPIRE (R144). -/
def execExpire (handle : Nat) (s : State) : Host.Outcome State Fault Refusal := guarded s (s.expirePulse handle)

/-- DISPATCH (R145). -/
def execDispatch (s : State) : Host.Outcome State Fault Refusal := guarded s s.dispatchDue

/-- GOTO (R147). -/
def execGoto (target : OpStatus) (delay : Nat) (s : State) : Host.Outcome State Fault Refusal :=
  guarded s (s.goto target delay)

end Sys2Proof.Machine
end

