-- ==== Sys2Proof/Machine/TypeIV.lean ====
section
/-! DEFINITION. Force Interrupt and its arms (45_force_interrupt.md). -/

namespace Sys2Proof.Machine

/-- `cancelForceArms()` (R305). -/
def State.cancelForceArms (s : State) : State :=
  let s1 := s.expireOpt s.fdc.indexPulse
  s1.withFdc { s1.fdc with indexPulse := none, armI0 := false, armI1 := false }

/-- `terminate(prevCmd)` (R301). -/
def State.terminate (s : State) (prevCmd : CmdKind) : State :=
  let s1 := s.expireOpt s.fdc.cmdPulse
  let s2 := if prevCmd = .writeTrack ∧ s1.fdc.op = .writingTrack then s1.wtAbort else s1
  s2.withFdc { s2.fdc with cmdPulse := none, busy := false, op := .opDone }

/-- The I2 arm: a periodic IndexIrq from the next index pulse on (R300). -/
def State.armIndex (s : State) : State :=
  let d := ticksToIndex s.cfg s.clk.ticks
  let s1 := s.registerPulse .indexIrq (if d = 0 then tpr s.cfg else d) true (tpr s.cfg)
  s1.withFdc { s1.fdc with indexPulse := some s.clk.nextHandle }

/-- `forceInterrupt(prevCmd)` (R300). -/
def State.forceInterrupt (s : State) (prevCmd : CmdKind) : State :=
  let s1 := if s.fdc.busy then s.terminate prevCmd else s.withFdc { s.fdc with statusMode := .typeI }
  let s2 := if s.fdc.cr.getLsbD 3 then s1.latchIntrq else s1
  let s3 := if s.fdc.cr.getLsbD 2 then s2.armIndex else s2
  { (s3.withFdc { s3.fdc with armI1 := s.fdc.cr.getLsbD 1, armI0 := s.fdc.cr.getLsbD 0 }) with lastReady := s3.ready }

end Sys2Proof.Machine
end

