-- ==== Sys2Proof/Machine/Ports.lean ====
section
/-! DEFINITION. The register ports (41_registers.md) and the meanings of the ten port operations. Each is one port
access of the Host, at the tick of the unit it belongs to (R96). -/

namespace Sys2Proof.Machine

/-- A port access: from it on the Host is inside a unit, until the next Advance (R141). -/
def portAccess (s : State) (act : State → State) : Host.Outcome State Fault Refusal :=
  guarded s (act { s with inUnit := true })

/-- Start the accepted command of kind `k`: the case of R171. -/
def State.startCommand (s : State) (k prevCmd : CmdKind) : State :=
  match k.type with
  | .typeI => (onPrepareTypeI (s.withFdc { s.fdc with op := .prepare })).run
  | .typeII | .typeIII => (onPrepareTypeII (s.withFdc { s.fdc with op := .prepare })).run
  | .typeIV => s.forceInterrupt prevCmd

/-- What an accepted command write does before the command starts: INTRQ and the old arms go, CR and cmd are set
(R171). -/
def State.acceptCommand (s : State) (v : Byte) : State :=
  let s1 := s.unlatchIntrq.cancelForceArms
  s1.withFdc { s1.fdc with cr := v, cmd := kindOf v }

/-- `WriteCommand(v)` (R171). -/
def State.writeCommand (s : State) (v : Byte) : State :=
  if s.fdc.busy ∧ kindOf v ≠ .forceInterrupt then s
  else (s.acceptCommand v).startCommand (kindOf v) s.fdc.cmd

/-- The least set bit of the drive-select field (R179). -/
def lowestDrive (v : Byte) : Option (Fin 4) :=
  if v.getLsbD 0 then some 0
  else if v.getLsbD 1 then some 1
  else if v.getLsbD 2 then some 2
  else if v.getLsbD 3 then some 3
  else none

/-- Drive `n`, when the controller has it (R64). Selecting a drive that it does not have, which needs P_NUM_DRIVES below 4,
selects none (DESIGN CHOICE, assumption 25); the motor is retriggered all the same (R179, R422). -/
def presentDrive (c : Config) (n : Fin 4) : Option (Fin 4) := if n.val < c.numDrives then some n else none

/-- A select that turns a running command to another drive or side takes the cursor modulo the new track's length (R452);
`old` is the controller before the select. -/
def State.redirected (s : State) (old : Fdc) : State :=
  if s.fdc.busy && (s.fdc.selDrive != old.selDrive || s.fdc.side != old.side) then
    s.withFdc { s.fdc with cursor := s.fdc.cursor % s.trackLen }
  else s

/-- The motor retrigger of a select write with a drive bit set (R179, R422). -/
def State.retriggerMotor (s : State) : State :=
  let s1 := ({ s with motorOn := true } : State).expireOpt s.motorPulse
  let s2 := s1.registerPulse .motorOff (usToTicks s.cfg s.cfg.motorTimeoutUs) false 0
  { s2 with motorPulse := some s.clk.nextHandle, motorIrq := false }

/-- The body WriteSelect and SelectDrive share, with the controller `f` that holds the new selection (R179, R452);
`driveBit` is `ds ≠ 0`, also where the drive it names is absent. -/
def State.select (s : State) (f : Fdc) (driveBit : Bool) : State :=
  let s1 := (s.withFdc f).redirected s.fdc
  (if driveBit then s1.retriggerMotor else s1).readyEdge

/-- `WriteSelect(v)` (R179). -/
def State.writeSelect (s : State) (v : Byte) : State :=
  s.select { s.fdc with
    selDrive := (lowestDrive v).bind (presentDrive s.cfg)
    side := v.getLsbD 4
    dd := v.getLsbD 7
    waitReq := v.getLsbD 6 && !(s.fdc.drq || s.fdc.intrq) } (lowestDrive v).isSome

/-- `SelectDrive(number, side)`: the drive and side part of the select write; density and wait stay (R170, R179). -/
def State.selectDrive (s : State) (number : Fin 4) (side : Bool) : State :=
  s.select { s.fdc with selDrive := presentDrive s.cfg number, side := side } true

/-! ### Meanings -/

/-- RD_STATUS (R172). -/
def execRdStatus (s : State) : Host.Outcome State Fault Refusal :=
  portAccess s fun u => { u.unlatchIntrq with hostData := u.status }

/-- WR_COMMAND (R171). -/
def execWrCommand (value : Byte) (s : State) : Host.Outcome State Fault Refusal :=
  portAccess s fun u => u.writeCommand value

/-- RD_TRACK (R174). -/
def execRdTrack (s : State) : Host.Outcome State Fault Refusal := portAccess s fun u => { u with hostData := u.fdc.tr }

/-- WR_TRACK (R173). -/
def execWrTrack (value : Byte) (s : State) : Host.Outcome State Fault Refusal :=
  portAccess s fun u => u.withFdc { u.fdc with tr := value }

/-- RD_SECTOR (R176). -/
def execRdSector (s : State) : Host.Outcome State Fault Refusal := portAccess s fun u => { u with hostData := u.fdc.sr }

/-- WR_SECTOR (R175). -/
def execWrSector (value : Byte) (s : State) : Host.Outcome State Fault Refusal :=
  portAccess s fun u => u.withFdc { u.fdc with sr := value }

/-- RD_DATA (R178). -/
def execRdData (s : State) : Host.Outcome State Fault Refusal :=
  portAccess s fun u => { (u.withFdc { u.fdc with drq := false }) with hostData := u.fdc.dr }

/-- WR_DATA (R177). -/
def execWrData (value : Byte) (s : State) : Host.Outcome State Fault Refusal :=
  portAccess s fun u => u.withFdc { u.fdc with dr := value, drq := false }

/-- What a read of the write-only select port returns, as from an undriven bus (R180). -/
def undrivenByte : Byte := 0xFF

/-- RD_SELECT (R180). -/
def execRdSelect (s : State) : Host.Outcome State Fault Refusal := portAccess s fun u => { u with hostData := undrivenByte }

/-- WR_SELECT (R179). -/
def execWrSelect (value : Byte) (s : State) : Host.Outcome State Fault Refusal :=
  portAccess s fun u => u.writeSelect value

end Sys2Proof.Machine
end

