-- ==== Sys2Proof/Machine/Commands.lean ====
section
/-! DEFINITION. The meanings of the eleven commands: each is the write of its command byte to port offset 0 (R112,
R171), in the Host's unit. What the command then does, pulse by pulse, is the sequencer's (Sequencer.lean). -/

namespace Sys2Proof.Machine

/-- RESTORE (R202). -/
def execRestore (h v : Bool) (r : BitVec 2) (s : State) : Host.Outcome State Fault Refusal :=
  portAccess s fun p => p.writeCommand (byteRestore h v r)

/-- SEEK (R203). -/
def execSeek (h v : Bool) (r : BitVec 2) (s : State) : Host.Outcome State Fault Refusal :=
  portAccess s fun p => p.writeCommand (byteSeek h v r)

/-- STEP (R204). -/
def execStep (u h v : Bool) (r : BitVec 2) (s : State) : Host.Outcome State Fault Refusal :=
  portAccess s fun p => p.writeCommand (byteStep u h v r)

/-- STEPIN (R205). -/
def execStepIn (u h v : Bool) (r : BitVec 2) (s : State) : Host.Outcome State Fault Refusal :=
  portAccess s fun p => p.writeCommand (byteStepIn u h v r)

/-- STEPOUT (R206). -/
def execStepOut (u h v : Bool) (r : BitVec 2) (s : State) : Host.Outcome State Fault Refusal :=
  portAccess s fun p => p.writeCommand (byteStepOut u h v r)

/-- READ_SECTOR (R240). -/
def execReadSector (m sd e c x : Bool) (s : State) : Host.Outcome State Fault Refusal :=
  portAccess s fun p => p.writeCommand (byteReadSector m sd e c x)

/-- WRITE_SECTOR (R250). -/
def execWriteSector (m sd e c a0 : Bool) (s : State) : Host.Outcome State Fault Refusal :=
  portAccess s fun p => p.writeCommand (byteWriteSector m sd e c a0)

/-- READ_ADDRESS (R270). -/
def execReadAddress (x3 e x1 x0 : Bool) (s : State) : Host.Outcome State Fault Refusal :=
  portAccess s fun p => p.writeCommand (byteReadAddress x3 e x1 x0)

/-- FORCE_INTERRUPT (R300). -/
def execForceInterrupt (i3 i2 i1 i0 : Bool) (s : State) : Host.Outcome State Fault Refusal :=
  portAccess s fun p => p.writeCommand (byteForceInterrupt i3 i2 i1 i0)

/-- READ_TRACK (R278). -/
def execReadTrack (x3 e x1 x0 : Bool) (s : State) : Host.Outcome State Fault Refusal :=
  portAccess s fun p => p.writeCommand (byteReadTrack x3 e x1 x0)

/-- WRITE_TRACK (R285). -/
def execWriteTrack (x3 e x1 x0 : Bool) (s : State) : Host.Outcome State Fault Refusal :=
  portAccess s fun p => p.writeCommand (byteWriteTrack x3 e x1 x0)

end Sys2Proof.Machine
end

