-- ==== Sys2Proof/Machine/Codec.lean ====
section
/-! DEFINITION. The track codec: Decode, Encode, the canonical layouts and new media (46_track_codec.md). Pure functions
over a track's bytes. -/

namespace Sys2Proof.Machine

/-! ### Decode (R326 to R328) -/

/-- The byte of a data mark (R325). -/
def DataMark.toByte : DataMark → Byte
  | .f8 => 0xF8
  | .f9 => 0xF9
  | .fa => 0xFA
  | .fb => 0xFB

/-- The data mark of a byte. -/
def DataMark.ofByte (v : Byte) : Option DataMark :=
  if v = 0xF8 then some .f8 else if v = 0xF9 then some .f9 else if v = 0xFA then some .fa
  else if v = 0xFB then some .fb else none

/-- `st(e)`: raw bytes per logical byte of the entry's sector (R327). -/
def entryStride (dd singleByte : Bool) : Nat := if dd || singleByte then 1 else 2

/-- `at(e, k)`: logical byte `k` of the entry's sector; `k = 0` is the mark (R327). -/
def sectorByte (T : Track) (singleByte : Bool) (e : IdamEntry) (k : Nat) : Byte :=
  T.data.read ((e.offset + k * entryStride e.dd singleByte) % T.len)

/-- Logical bytes `k`, `k + 1`, … of the entry's sector. -/
def sectorBytes (T : Track) (singleByte : Bool) (e : IdamEntry) (k n : Nat) : List Byte :=
  (List.range n).map fun i => sectorByte T singleByte e (k + i)

/-- Logical byte `k` is the sector's data mark: a mark value, after three sync bytes in double density (R328). -/
def isMarkAt (T : Track) (singleByte : Bool) (e : IdamEntry) (k : Nat) : Bool :=
  isDataMark (sectorByte T singleByte e k) && (!e.dd || sectorBytes T singleByte e (k - 3) 3 == [0xA1, 0xA1, 0xA1])

/-- The logical position of the entry's data mark, searched in its window (R328). -/
def markPosition (c : Config) (T : Track) (singleByte : Bool) (e : IdamEntry) : Option Nat :=
  ((List.range (damLimit c e.dd)).map (· + 7)).find? (isMarkAt T singleByte e)

/-- The stored CRC at logical positions `k` and `k + 1`, high byte first (R322). -/
def storedCrc (T : Track) (singleByte : Bool) (e : IdamEntry) (k : Nat) : Half :=
  halfOf (sectorByte T singleByte e k) (sectorByte T singleByte e (k + 1))

/-- `decodeOne(e)` (R328). -/
def decodeOne (c : Config) (T : Track) (singleByte : Bool) (e : IdamEntry) : SectorDescriptor :=
  let seed := seedOf c e.dd
  let id := sectorBytes T singleByte e 1 4
  let sizeCode := sectorByte T singleByte e 4
  let base : SectorDescriptor :=
    { track := sectorByte T singleByte e 1, side := sectorByte T singleByte e 2, sector := sectorByte T singleByte e 3,
      sizeCode := sizeCode, dd := e.dd, dam := none,
      idCrcErr := crcBytes c.crcPoly seed (0xFE :: id) != storedCrc T singleByte e 5,
      dataCrcErr := false, payload := [] }
  match markPosition c T singleByte e with
  | none => base
  | some k =>
    let n := sectorLength sizeCode
    let payload := sectorBytes T singleByte e (k + 1) n
    let mark := sectorByte T singleByte e k
    { base with
      dam := DataMark.ofByte mark
      payload := payload
      dataCrcErr := crcBytes c.crcPoly seed (mark :: payload) != storedCrc T singleByte e (k + n + 1) }

/-- `Decode(rawBytes, densityMap, singleByte)`: one descriptor per index entry whose byte is 0xFE, in index order
(R326). -/
def decodeTrack (c : Config) (T : Track) (singleByte : Bool) : List SectorDescriptor :=
  (T.index.filter fun e => T.data.read e.offset == 0xFE).map (decodeOne c T singleByte)

/-! ### Encode (R330 to R334) -/

/-- A field's CRC as stored: inverted when the descriptor's error flag is set, high byte first (R333). -/
def storedCrcBytes (crc : Half) (inverted : Bool) : List Byte :=
  let w := if inverted then crc ^^^ 0xFFFF else crc
  [hiByte w, loByte w]

/-- The address field after its mark: track, side, sector, size code, CRC (R331 to R333). -/
def idField (c : Config) (d : SectorDescriptor) : List Byte :=
  let id := [d.track, d.side, d.sector, d.sizeCode]
  id ++ storedCrcBytes (crcBytes c.crcPoly (seedOf c d.dd) (0xFE :: id)) d.idCrcErr

/-- The data field from its mark on (R331 to R333). -/
def dataField (c : Config) (d : SectorDescriptor) (dam : DataMark) : List Byte :=
  dam.toByte :: d.payload ++
    storedCrcBytes (crcBytes c.crcPoly (seedOf c d.dd) (dam.toByte :: d.payload)) d.dataCrcErr

/-- The bytes before a mark: zeros, then three sync bytes in double density (R331, R332). -/
def syncRun (dd : Bool) : List Byte :=
  if dd then List.replicate 12 0x00 ++ [0xA1, 0xA1, 0xA1] else List.replicate 6 0x00

/-- The filler byte of gaps (R334). -/
def gapByte (dd : Bool) : Byte := if dd then 0x4E else 0xFF

/-- Gap 4a, before the first sector (R331, R332). -/
def gap4a (dd : Bool) : List Byte := List.replicate (if dd then 32 else 16) (gapByte dd)

/-- Gap 2, between the address field and the data field (R331, R332). -/
def gap2 (dd : Bool) : List Byte := List.replicate (if dd then 22 else 11) (gapByte dd)

/-- Gap 3, after the data field (R331, R332). -/
def gap3 (dd : Bool) : List Byte := List.replicate (if dd then 24 else 12) (gapByte dd)

/-- `sectorDD(d)` or `sectorSD(d)` (R331, R332); without a data mark the data field is left out (R333). -/
def sectorLayout (c : Config) (d : SectorDescriptor) : List Byte :=
  syncRun d.dd ++ 0xFE :: idField c d ++ gap2 d.dd ++
    (match d.dam with | some dam => syncRun d.dd ++ dataField c d dam | none => []) ++ gap3 d.dd

/-- The sectors' logical bytes from logical position `pos` on, with the logical positions of their ID marks. -/
def layoutSectors (c : Config) : Nat → List SectorDescriptor → List Byte × List Nat
  | _, [] => ([], [])
  | pos, d :: rest =>
    let bytes := sectorLayout c d
    let (more, marks) := layoutSectors c (pos + bytes.length) rest
    (bytes ++ more, (pos + (syncRun d.dd).length) :: marks)

/-- The payload length every descriptor must have, with a data mark or without one (R330, assumption 15). -/
def payloadOk (d : SectorDescriptor) : Bool := d.payload.length == sectorLength d.sizeCode

/-- Each logical byte stored `k` times. -/
def doubled (k : Nat) (bytes : List Byte) : List Byte := (bytes.map fun v => List.replicate k v).flatten

/-- `Encode(sectorDescriptors, dd, cap, singleByte)`: the raw buffer of length `cap` with the index of its ID marks;
none where Encode is refused (R330, R334). -/
def encodeTrack (c : Config) (ds : List SectorDescriptor) (dd : Bool) (cap : Nat) (singleByte : Bool) : Option Track :=
  let k := entryStride dd singleByte
  let (sectors, marks) := layoutSectors c (gap4a dd).length ds
  let logical := gap4a dd ++ sectors
  if ds.all (fun d => d.dd == dd && payloadOk d) && decide (logical.length ≤ cap / k) then
    let raw := doubled k logical
    let padded := raw ++ List.replicate (cap - raw.length) (gapByte dd)
    some { len := cap, data := Memory.ofBytes 0 padded, index := marks.map fun p => { offset := k * p, dd := dd } }
  else none

/-! ### New media (R340 to R342) -/

/-- The first free slot from `pos` on, tried `fuel` times (R341). -/
def freeSlot (slots : List (Option Nat)) : Nat → Nat → Nat
  | 0, pos => pos
  | fuel + 1, pos =>
    match slots[pos]? with
    | some (some _) => freeSlot slots fuel ((pos + 1) % slots.length)
    | _ => pos

/-- The loop of `interleave(n)`: place sectors `k`, `k + 1`, … (R341). -/
def placeSectors (step : Nat) : List Nat → Nat → List (Option Nat) → List (Option Nat)
  | [], _, slots => slots
  | k :: rest, pos, slots =>
    let p := freeSlot slots slots.length pos
    placeSectors step rest ((p + step) % slots.length) (slots.set p (some k))

/-- `interleave(n)`: the sector number at each physical slot (R341). -/
def interleave (c : Config) (n : Nat) : List Nat :=
  (placeSectors c.interleave (List.range n) 0 (List.replicate n none)).filterMap id

/-- Sectors per track of new media (R340). -/
def newSectors (c : Config) (dd : Bool) : Nat := if dd then c.sectorsDd else c.sectorsSd

/-- Descriptor `k` of track `t`, side `side` of a new formatted medium (R340). The payload has P_SECTOR_BYTES_NEW bytes and
the size code is 1, as R340 writes it, so that with any other size than 256 Encode refuses the track (DESIGN CHOICE,
assumption 26). -/
def newDescriptor (c : Config) (t : Nat) (side : Bool) (dd : Bool) (k : Nat) : SectorDescriptor :=
  { track := BitVec.ofNat 8 t, side := byteOfBool side, sector := BitVec.ofNat 8 k, sizeCode := 1, dd := dd,
    dam := some .fb, idCrcErr := false, dataCrcErr := false, payload := List.replicate c.sectorBytesNew c.fillData }

/-- The capacity of a track of new media. -/
def newCapacity (c : Config) : Nat := c.trackLenNew - c.trackHdr

/-- Track `t`, side `side` of a new formatted medium (R340). -/
def newTrack (c : Config) (t : Nat) (side dd : Bool) : Option Track :=
  encodeTrack c ((interleave c (newSectors c dd)).map (newDescriptor c t side dd)) dd (newCapacity c) false

/-- The (track, side) pairs of a geometry in the file's order (R360). -/
def trackOrder (tracks sides : Nat) : List (Nat × Bool) :=
  (List.range tracks).flatMap fun t => (List.range sides).map fun sd => (t, decide (sd = 1))

/-- A new medium holding the given tracks (R340, R342, R374). Its path is the empty string: the rules give it none
(DESIGN CHOICE, assumption 23). -/
def newMedium (c : Config) (tracks sides : Nat) (ts : List Track) : Medium :=
  { tracksPerSide := tracks, sides := sides, singleByte := false, declLen := c.trackLenNew, writeProtected := false,
    changed := false, path := "", tracks := ts }

/-- `newFormatted(tracks, sides, dd)` (R340); none when the layout does not fit (R334). -/
def newFormatted (c : Config) (tracks sides : Nat) (dd : Bool) : Option Medium :=
  ((trackOrder tracks sides).mapM fun p => newTrack c p.1 p.2 dd).map (newMedium c tracks sides)

/-- `newUnformatted(tracks, sides)` (R342), filled with P_PAD, which is R342's 0x00 by default (DESIGN CHOICE, assumption
29). -/
def newUnformatted (c : Config) (tracks sides : Nat) : Medium :=
  newMedium c tracks sides (List.replicate (tracks * sides)
    { len := newCapacity c, data := Memory.ofBytes 0 (List.replicate (newCapacity c) c.pad), index := [] })

end Sys2Proof.Machine
end

