-- ==== Sys2Proof/Machine/Image.lean ====
section
/-! DEFINITION. The disk-image file: load and save, and the form of a medium (47_disk_image.md, R68, R69). -/

namespace Sys2Proof.Machine

/-- The format errors of R402. -/
inductive FormatError where
  | tooShort | ignoreDensityUnsupported | badTrackCount | badTrackLength | truncated | idamOutOfBounds
deriving DecidableEq, Repr

/-! ### The form of a medium (R68, R69) -/

/-- The index is in ascending offset order, offsets distinct and from `lo` on (R69). -/
def ascendingFrom : Nat → List IdamEntry → Bool
  | _, [] => true
  | lo, e :: rest => decide (lo ≤ e.offset) && ascendingFrom (e.offset + 1) rest

/-- The buffer of a track: `1 ≤ L ≤ cap`, canonical bytes, none listed at or past L (R69). -/
def Track.bufferOk (cap : Nat) (T : Track) : Bool :=
  decide (1 ≤ T.len) && decide (T.len ≤ cap) && T.data.wf && T.data.all fun cell => decide (cell.1 < T.len)

/-- The index of a track: at most P_IDAM_SLOTS entries, ascending, each offset below L (R69). -/
def Track.indexOk (c : Config) (T : Track) : Bool :=
  decide (T.index.length ≤ c.idamSlots) && ascendingFrom 0 T.index && T.index.all fun e => decide (e.offset < T.len)

/-- The geometry and header fields of a medium (R68). -/
def Medium.geometryOk (c : Config) (m : Medium) : Bool :=
  decide (1 ≤ m.tracksPerSide) && decide (m.tracksPerSide ≤ c.maxTrack + 1) && (m.sides == 1 || m.sides == 2) &&
    decide (c.trackHdr < m.declLen) && decide (m.declLen ≤ c.trackLenMax) &&
    m.tracks.length == m.tracksPerSide * m.sides

/-- A medium has the form of R68 and R69. -/
def Medium.wf (c : Config) (m : Medium) : Bool :=
  m.geometryOk c && m.tracks.all fun T => T.bufferOk (m.declLen - c.trackHdr) && T.indexOk c

/-! ### Load (R366) -/

/-- The 16-bit little-endian words of a byte string (R91). -/
def leWords : List Byte → List Nat
  | lo :: hi :: rest => (lo.toNat + 256 * hi.toNat) :: leWords rest
  | _ => []

/-- The IDAM entries of the pointer words, up to the first zero word; none when one lies outside the data (R365, R366). -/
def parsePointers (base dataLen : Nat) : List Nat → Option (List IdamEntry)
  | [] => some []
  | w :: rest =>
    if w = 0 then some []
    else
      let off := w % 0x4000
      if off < base ∨ dataLen ≤ off - base then none
      else (parsePointers base dataLen rest).map fun es => { offset := off - base, dd := decide (0x8000 ≤ w) } :: es

/-- Put an entry into an index kept in ascending offset order. An entry of the same offset is a duplicate and removed;
where its density differs, which one survives is left open (R366, assumption 9). -/
def insertEntry (e : IdamEntry) : List IdamEntry → List IdamEntry
  | [] => [e]
  | x :: rest =>
    if e.offset < x.offset then e :: x :: rest
    else if e.offset = x.offset then
      (if e.dd = x.dd then x else { offset := x.offset, dd := Config.idamClash x.offset }) :: rest
    else x :: insertEntry e rest

/-- 'sorted by offset, duplicates removed' (R366). -/
def sortEntries (es : List IdamEntry) : List IdamEntry := es.foldr insertEntry []

/-- One track record (R364, R366). -/
def loadTrack (c : Config) (rec : List Byte) : Option Track :=
  let data := rec.drop c.trackHdr
  (parsePointers c.idamBase data.length (leWords (rec.take (2 * c.idamSlots)))).map fun es =>
    { len := data.length, data := Memory.ofBytes 0 data, index := sortEntries es }

/-- `n` consecutive track records. -/
def loadTracks (c : Config) (declLen : Nat) : Nat → List Byte → Option (List Track)
  | 0, _ => some []
  | n + 1, f =>
    match loadTrack c (f.take declLen) with
    | none => none
    | some T => (loadTracks c declLen n (f.drop declLen)).map (T :: ·)

/-- Byte `i` of a file. -/
def fileByte (f : List Byte) (i : Nat) : Byte := f.getD i 0

/-- `load(bytes)` (R366); the medium takes the path it is loaded under (DEDUCED, assumption 23). -/
def loadImage (c : Config) (path : String) (f : List Byte) : Except FormatError Medium :=
  let flags := fileByte f 4
  let tracks := (fileByte f 1).toNat
  let sides := if flags.getLsbD 4 then 1 else 2
  let declLen := (fileByte f 2).toNat + 256 * (fileByte f 3).toNat
  if f.length < c.imageHdr then .error .tooShort
  else if flags.getLsbD 7 then .error .ignoreDensityUnsupported
  else if tracks = 0 ∨ c.maxTrack + 1 < tracks then .error .badTrackCount
  else if declLen ≤ c.trackHdr ∨ c.trackLenMax < declLen then .error .badTrackLength
  else if f.length < c.imageHdr + tracks * sides * declLen then .error .truncated
  else
    match loadTracks c declLen (tracks * sides) (f.drop c.imageHdr) with
    | none => .error .idamOutOfBounds
    | some ts =>
      .ok { tracksPerSide := tracks, sides := sides, singleByte := flags.getLsbD 6, declLen := declLen,
            writeProtected := fileByte f 0 != 0, changed := false, path := path, tracks := ts }

/-! ### Save (R368) -/

/-- A 16-bit little-endian word (R91). -/
def leWord (w : Nat) : List Byte := [BitVec.ofNat 8 w, BitVec.ofNat 8 (w / 256)]

/-- The file header of a medium, always R361's 16 bytes (R361, R368; DESIGN CHOICE for another P_IMAGE_HDR or more than 255
tracks, assumption 29). -/
def imageHeader (m : Medium) : List Byte :=
  [if m.writeProtected then 0xFF else 0x00, BitVec.ofNat 8 m.tracksPerSide] ++ leWord m.declLen ++
    [(if m.sides = 1 then 0x10 else 0) ||| (if m.singleByte then 0x40 else 0)] ++ List.replicate 11 0x00

/-- The pointer word of an index entry (R365, R368; DESIGN CHOICE for one that needs more than 14 bits, assumption 29). -/
def pointerWord (c : Config) (e : IdamEntry) : Nat := e.offset + c.idamBase + (if e.dd then 0x8000 else 0)

/-- The record of one track: pointers, data, padding (R368). -/
def trackRecord (c : Config) (declLen : Nat) (T : Track) : List Byte :=
  (T.index.flatMap fun e => leWord (pointerWord c e)) ++
    List.replicate (2 * (c.idamSlots - T.index.length)) 0x00 ++
    T.data.bytes 0 T.len ++ List.replicate (declLen - c.trackHdr - T.len) c.pad

/-- The bytes `save(medium)` returns (R368). -/
def saveImage (c : Config) (m : Medium) : List Byte :=
  imageHeader m ++ m.tracks.flatMap (trackRecord c m.declLen)

end Sys2Proof.Machine
end

