-- ==== Sys2Proof/Machine/Operator.lean ====
section
/-! DEFINITION. Reset() (R440), the Operator's actions (R373, R375, R367 to R369, R336) and the derived interface of the
collaborators (R67, R372). -/

namespace Sys2Proof.Machine

/-! ### Reset (R440, R441) -/

/-- The pulses Reset() expires: every FDC pulse, not the External ones (R440, R441). -/
def Pulse.fdcOwned (e : Pulse) : Bool := e.cb != .external

/-- `Reset()` (R440). -/
def State.hardReset (s : State) : State :=
  let s1 := if s.fdc.busy ∧ s.fdc.cmd = .writeTrack ∧ s.fdc.op = .writingTrack then s.wtAbort else s
  { s1 with
    clk := { s1.clk with pulses := s1.clk.pulses.map fun e => if e.fdcOwned then { e with expired := true } else e }
    fdc := Fdc.reset
    drives := s1.drives.map fun d => { d with physTrack := 0 }
    motorOn := false
    motorPulse := none
    motorIrq := false
    lastReady := false }

/-! ### The collaborator interface (R67, R372) -/

/-- The per-drive status (R67). -/
inductive DriveStatus where
  | noDisk | busy | idle
deriving DecidableEq, Repr

/-- `status(n)` (R67, R372). -/
def State.driveStatus (s : State) (n : Fin 4) : DriveStatus :=
  if (s.drive n).medium.isNone then .noDisk
  else if s.fdc.selDrive = some n ∧ s.fdc.busy then .busy
  else .idle

/-- `getPath(n)` (R372); none without a medium (DESIGN CHOICE, assumption 28). -/
def State.getPath (s : State) (n : Fin 4) : Option String := (s.drive n).medium.map Medium.path

/-- `changed(n)` (R372, R70); none without a medium (DESIGN CHOICE, assumption 28). -/
def State.changedSinceLoad (s : State) (n : Fin 4) : Option Bool := (s.drive n).medium.map Medium.changed

/-- Sector enumeration of `track(t, side)` of drive `n` (R370); an absent track has no sectors (DESIGN CHOICE, assumption
28). -/
def State.sectors (s : State) (n : Fin 4) (t : Nat) (side : Bool) : List SectorDescriptor :=
  match (s.drive n).medium with
  | some m =>
    match m.track t side with
    | some T => decodeTrack s.cfg T m.singleByte
    | none => []
  | none => []

/-! ### The Operator's actions -/

/-- Replace the medium of drive `n`. -/
def State.setMedium (s : State) (n : Fin 4) (m : Option Medium) : State :=
  s.setDrive n { (s.drive n) with medium := m }

/-- Change the medium of drive `n`, if one is present: so R372 says for setWP, and setPath does the same (DESIGN CHOICE,
assumption 28). -/
def State.editMedium (s : State) (n : Fin 4) (f : Medium → Medium) : State :=
  match (s.drive n).medium with
  | some m => s.setMedium n (some (f m))
  | none => s

/-- `mount(n, m)` (R375). -/
def State.mount (s : State) (n : Fin 4) (m : Medium) : State :=
  (s.setMedium n (some { m with changed := false })).readyEdge

/-- `eject(n)` (R375), also what a FormatError leaves (R367). -/
def State.eject (s : State) (n : Fin 4) : State := (s.setMedium n none).readyEdge

/-- The ID fields a descriptor is matched by (R336, assumption 14). -/
def SectorDescriptor.sameId (a b : SectorDescriptor) : Bool :=
  a.track == b.track && a.side == b.side && a.sector == b.sector

/-- Replace the first descriptor with the same ID; none when there is none. -/
def replaceDescriptor (d : SectorDescriptor) : List SectorDescriptor → Option (List SectorDescriptor)
  | [] => none
  | x :: rest => if x.sameId d then some (d :: rest) else (replaceDescriptor d rest).map (x :: ·)

/-- The descriptor-level write on a track: decode, replace, re-encode in the descriptor's density (R336). -/
def rewriteTrack (c : Config) (m : Medium) (T : Track) (d : SectorDescriptor) : Except Refusal Track :=
  match replaceDescriptor d (decodeTrack c T m.singleByte) with
  | none => .error .nothingToActOn
  | some ds =>
    match encodeTrack c ds d.dd (m.declLen - c.trackHdr) m.singleByte with
    | none => .error .encodeRefused
    | some T' => .ok T'

/-- The descriptor-level write of a drive (R336, R373). -/
def State.writeDescriptor (s : State) (n : Fin 4) (t : Nat) (side : Bool) (d : SectorDescriptor) :
    Except Refusal State :=
  match (s.drive n).medium with
  | none => .error .nothingToActOn
  | some m =>
    match m.track t side with
    | none => .error .nothingToActOn
    | some T =>
      match rewriteTrack s.cfg m T d with
      | .error r => .error r
      | .ok T' => .ok (s.setMedium n (some { m.setTrack t side T' with changed := true }))

/-- `save(n)`: the file's bytes leave the block, and changed is cleared (R368, R70); refused without a medium (DESIGN CHOICE,
assumption 28). -/
def State.save (s : State) (n : Fin 4) : Except Refusal State :=
  match (s.drive n).medium with
  | none => .error .nothingToActOn
  | some m => .ok { (s.setMedium n (some { m with changed := false })) with savedImage := saveImage s.cfg m }

/-- The outcome of an action that may be refused. -/
def outcomeOf (r : Except Refusal State) : Host.Outcome State Fault Refusal :=
  match r with
  | .ok s => .next s
  | .error e => .refused e

/-- The drive an action is about. -/
def OperatorAction.drive : OperatorAction → Option (Fin 4)
  | .mount n _ | .loadImage n _ _ | .eject n | .setWriteProtect n _ | .setPath n _ | .writeDescriptor n _ _ _ | .save n =>
    some n
  | .reset => none

/-- The controller has the drive the action is about (R64). -/
def OperatorAction.present (a : OperatorAction) (c : Config) : Bool :=
  match a.drive with
  | some n => decide (n.val < c.numDrives)
  | none => true

/-- Carry an Operator action on a drive of the controller out. -/
def State.perform (s : State) (a : OperatorAction) : Host.Outcome State Fault Refusal :=
  match a with
  | .mount n m => if m.wf s.cfg then .next (s.mount n m) else .refused .illFormedMedium
  | .loadImage n path file =>
    match loadImage s.cfg path file with
    | .ok m => .next (s.mount n m)
    | .error _ => .next (s.eject n)
  | .eject n => .next (s.eject n)
  | .setWriteProtect n b => .next (s.editMedium n fun m => { m with writeProtected := b })
  | .setPath n path => .next (s.editMedium n fun m => { m with path := path })
  | .writeDescriptor n t side d => outcomeOf (s.writeDescriptor n t side d)
  | .save n => outcomeOf (s.save n)
  | .reset => .next s.hardReset

/-- Carry an Operator action out; the drive must be one of the controller's (assumption 25). -/
def State.operate (s : State) (a : OperatorAction) : Host.Outcome State Fault Refusal :=
  if a.present s.cfg then s.perform a else .refused .noSuchDrive

end Sys2Proof.Machine
end

