-- ==== Sys2Proof/Machine/Fetch.lean ====
section
/-! DEFINITION. What the next step does: the fault mark, the Operator between units, a held Host, or the next thing the
Host does (R7, R96, R141, R373). Step.lean only carries out what `nextEvent` answers. -/

namespace Sys2Proof.Machine

/-- What the next step carries out, with the state it starts from. -/
inductive Event where
  | stopped (r : FaultReason)
  | operator (a : OperatorAction) (s : State)
  | heldTick
  | instr (i : Instr) (s : State)
  | selectDrive (number : Fin 4) (side : Bool) (s : State)
  | resetLine (s : State)
  | none (r : Refusal)
deriving DecidableEq, Repr

/-- A save waits for `op = OpDone`; every other action may happen at once (R369). -/
def OperatorAction.allowed (a : OperatorAction) (s : State) : Bool :=
  match a with
  | .save _ => s.fdc.op == .opDone
  | _ => true

/-- The Operator acts now: its next action is due and allowed, and no unit is in progress (R7, R373). -/
def State.operatorNow (s : State) : Option (OperatorAction × State) :=
  match s.operator with
  | (t, a) :: rest =>
    if decide (t ≤ s.clk.ticks) && !s.inUnit && a.allowed s then some (a, { s with operator := rest }) else none
  | [] => none

/-- The next thing the Host does. -/
def State.hostEvent (s : State) : Event :=
  match s.script with
  | [] => .none .hostSilent
  | .word bytes :: rest =>
    match decode s.cfg.portBase bytes with
    | .ok i => .instr i { s with script := rest }
    | .error e => .none (.undecodable e)
  | .selectDrive number side :: rest => .selectDrive number side { s with script := rest }
  | .resetLine :: rest => .resetLine { s with script := rest }

/-- What the next step carries out. -/
def State.nextEvent (s : State) : Event :=
  match s.fault with
  | some r => .stopped r
  | none =>
    match s.operatorNow with
    | some (a, s') => .operator a s'
    | none => if s.held then .heldTick else s.hostEvent

/-- `s` with the instruction of a table word as the next thing the Host does. Being inside a unit puts it before a due
Operator action and before a held Host's wait ticks. -/
def State.placeWord (s : State) (nbits w : Nat) : State :=
  { s with script := .word (layoutWord nbits w) :: s.script
           inUnit := s.inUnit || s.held || s.operatorNow.isSome }

end Sys2Proof.Machine
end

