-- ==== Sys2Proof/Machine/Dispatch.lean ====
section
/-! DEFINITION. exec: one arm per instruction, each one direct call of its meaning. -/

namespace Sys2Proof.Machine

/-- The meaning of an instruction at a state. -/
def exec (i : Instr) (s : State) : Host.Outcome State Fault Refusal :=
  match i with
  | .restore h v r => Sys2Proof.Machine.execRestore h v r s
  | .seek h v r => Sys2Proof.Machine.execSeek h v r s
  | .step u h v r => Sys2Proof.Machine.execStep u h v r s
  | .stepIn u h v r => Sys2Proof.Machine.execStepIn u h v r s
  | .stepOut u h v r => Sys2Proof.Machine.execStepOut u h v r s
  | .readSector m sd e c x => Sys2Proof.Machine.execReadSector m sd e c x s
  | .writeSector m sd e c a0 => Sys2Proof.Machine.execWriteSector m sd e c a0 s
  | .readAddress x3 e x1 x0 => Sys2Proof.Machine.execReadAddress x3 e x1 x0 s
  | .forceInterrupt i3 i2 i1 i0 => Sys2Proof.Machine.execForceInterrupt i3 i2 i1 i0 s
  | .readTrack x3 e x1 x0 => Sys2Proof.Machine.execReadTrack x3 e x1 x0 s
  | .writeTrack x3 e x1 x0 => Sys2Proof.Machine.execWriteTrack x3 e x1 x0 s
  | .rdStatus => Sys2Proof.Machine.execRdStatus s
  | .wrCommand value => Sys2Proof.Machine.execWrCommand value s
  | .rdTrack => Sys2Proof.Machine.execRdTrack s
  | .wrTrack value => Sys2Proof.Machine.execWrTrack value s
  | .rdSector => Sys2Proof.Machine.execRdSector s
  | .wrSector value => Sys2Proof.Machine.execWrSector value s
  | .rdData => Sys2Proof.Machine.execRdData s
  | .wrData value => Sys2Proof.Machine.execWrData value s
  | .rdSelect => Sys2Proof.Machine.execRdSelect s
  | .wrSelect value => Sys2Proof.Machine.execWrSelect value s
  | .advance n => Sys2Proof.Machine.execAdvance n s
  | .registerPulse cb delay periodic period => Sys2Proof.Machine.execRegisterPulse cb delay periodic period s
  | .expire handle => Sys2Proof.Machine.execExpire handle s
  | .dispatch => Sys2Proof.Machine.execDispatch s
  | .goto target delay => Sys2Proof.Machine.execGoto target delay s

end Sys2Proof.Machine
end

