-- ==== Sys2Proof/Machine/Step.lean ====
section
/-! DEFINITION. One step of the machine, and the place where an instruction is put to be the next one run. -/

namespace Sys2Proof.Machine

/-- One step: what `nextEvent` answers, carried out. A held Host's step is a wait-state tick (R141, R456); SelectDrive is
one port access of the Host (R179); the reset line acts inside the Host's unit (R440). -/
def step (s : State) : Host.Outcome State Fault Refusal :=
  match s.nextEvent with
  | .stopped r => .fault (.fatal r)
  | .operator a s' => s'.operate a
  | .heldTick => .next (s.advanceBy s.cfg.waitTstates)
  | .instr i s' => exec i s'
  | .selectDrive number side s' => portAccess s' fun u => u.selectDrive number side
  | .resetLine s' => portAccess s' State.hardReset
  | .none r => .refused r

/-- `s` with the instruction of a table word stored where step fetches its next instruction: at the head of the Host's
script. -/
def State.withFetchWord (s : State) (nbits w : Nat) : State := s.placeWord nbits w

end Sys2Proof.Machine
end

