-- ==== Sys2Proof/Safety.lean ====
section
/-! DEFINITION. What counts as a legal parameter set and a safe state, and the vocabulary the statements are written
in: what a command write leaves of the arms and the flags, which raw bytes lie under the head, what stays unchanged. -/

namespace Sys2Proof

/-! ### Kinds of instruction -/

/-- The instruction is a raw scheduler call that the block's own rules never make from outside a handler: a GOTO, or a
REGISTER_PULSE of a callback that is the block's own or that is a caller error (R143). -/
def Instr.rawCall : Instr → Bool
  | .goto _ _ => true
  | .registerPulse cb delay periodic period => cb != .external || (periodic && (delay == 0 || period == 0))
  | _ => false

/-- The instruction is a port access of the Host: a command, or a read or write of a port (R96). -/
def Instr.portAccess : Instr → Bool
  | .advance _ | .registerPulse _ _ _ _ | .expire _ | .dispatch | .goto _ _ => false
  | _ => true

end Sys2Proof

namespace Sys2Proof.Machine

/-! ### Legal parameters (R9, R10) -/

/-- Every delay a rule registers is positive, the derived quantities divide by nothing zero, Restore may step at least once, the
track header holds the pointer slots (R9), there are 1 to 4 drives (R64, R111), and the double-density seed is the CRC of the
sync bytes (R323). The spec nowhere says which parameters are legal: this set is the model's (DESIGN CHOICE, assumption 30). -/
def legalConfig (c : Config) : Bool :=
  decide (0 < c.ticksPerTstate) && decide (0 < c.waitTstates) && decide (0 < tpr c) && decide (0 < c.angleScale) &&
    decide (0 < byteTicks c false) && decide (0 < byteTicks c true) &&
    decide (0 < usToTicks c c.stepUs[0]) && decide (0 < usToTicks c c.stepUs[1]) &&
    decide (0 < usToTicks c c.stepUs[2]) && decide (0 < usToTicks c c.stepUs[3]) &&
    decide (0 < usToTicks c c.settleUs) && decide (0 < usToTicks c c.motorTimeoutUs) && decide (0 < c.wtWindow) &&
    decide (0 < c.restoreLimit) && decide (0 < c.numDrives) && decide (c.numDrives ≤ 4) && c.trackHdr == 2 * c.idamSlots &&
    c.seedDd == crcBytes c.crcPoly c.seedSd [0xA1, 0xA1, 0xA1]

/-! ### The invariant every step keeps -/

/-- How many protocol-error flags are set (R47). -/
def Fdc.errorCount (f : Fdc) : Nat := f.seekErr.toNat + f.crcErr.toNat + f.lostData.toNat + f.wpErr.toNat

/-- The part of a medium's form (R68, R69) that no sequence of steps can break: the geometry, every buffer canonical and
within `1 ≤ L ≤ cap`, every index within the slots. -/
def Medium.formKept (c : Config) (m : Medium) : Bool :=
  m.geometryOk c && m.tracks.all fun T => T.bufferOk (m.declLen - c.trackHdr) && decide (T.index.length ≤ c.idamSlots)

/-- The invariant: legal parameters; the clock a multiple of a T-state and below 2^64 (R154, R30); without a fault,
every live pulse in the future (R153 (a)); handles and sequence numbers below their counters (R32, R33); at most one
error flag (R47); a selected drive that exists (R51); every head within the drive (R65); every medium in form (R68, R69). -/
structure State.Inv (s : State) : Prop where
  legal : legalConfig s.cfg = true
  aligned : s.clk.ticks % s.cfg.ticksPerTstate = 0
  bounded : s.clk.ticks < 2 ^ 64
  future : s.fault = none → ∀ e ∈ s.clk.pulses, e.expired = false → s.clk.ticks < e.trigger
  periods : ∀ e ∈ s.clk.pulses, e.periodic = true → 0 < e.period
  handles : ∀ e ∈ s.clk.pulses, e.handle < s.clk.nextHandle
  seqs : ∀ e ∈ s.clk.pulses, e.seq < s.clk.nextSeq
  oneError : s.fdc.errorCount ≤ 1
  heads : ∀ n, (s.drive n).physTrack ≤ s.cfg.maxTrack
  media : ∀ n m, (s.drive n).medium = some m → m.formKept s.cfg = true
  newIndex : s.fdc.newIndex.length ≤ s.cfg.idamSlots
  selected : ∀ n, s.fdc.selDrive = some n → n.val < s.cfg.numDrives

/-! ### The sequencer's invariant (R57, R153) -/

/-- The states a running command of each kind waits in, between two firings of its pulse (R17, R55). -/
def waitsIn (k : CmdKind) (op : OpStatus) : Bool :=
  match k with
  | .restore | .seek | .step | .stepIn | .stepOut =>
    op == .typeIStep || op == .verifySettle || op == .seekingIdam || op == .readingAddressData
  | .readSector =>
    op == .delay || op == .seekingIdam || op == .readingAddressData || op == .seekingDam || op == .readingData ||
      op == .readCrc
  | .writeSector =>
    op == .delay || op == .seekingIdam || op == .readingAddressData || op == .writeGap || op == .writingFiller ||
      op == .writingDam || op == .writingData || op == .writeCrc || op == .writeTrailer
  | .readAddress => op == .delay || op == .seekingIdam || op == .readingAddressData
  | .readTrack => op == .delay || op == .readingTrack
  | .writeTrack => op == .delay || op == .writeTrackDrq || op == .writingTrack
  | .forceInterrupt => false

/-- A live entry of callback `cb`. -/
def Pulse.live (e : Pulse) (cb : Callback) : Prop := e.expired = false ∧ e.cb = cb

/-- The sequencer's invariant: an idle controller is in OpDone with no live FdcStep entry (R153 (c)); a busy one waits in
a state of its command; each live FdcStep, MotorOff and IndexIrq entry is the one its field names, so that there is at
most one of each (R57, R153 (b)); the ID buffer is never overrun. -/
structure State.SeqInv (s : State) : Prop where
  idle : s.fdc.busy = false → s.fdc.op = .opDone ∧ ∀ e ∈ s.clk.pulses, ¬ e.live .fdcStep
  waiting : s.fdc.busy = true → waitsIn s.fdc.cmd s.fdc.op = true
  command : ∀ e ∈ s.clk.pulses, e.live .fdcStep → s.fdc.cmdPulse = some e.handle ∧ e.periodic = false
  motor : ∀ e ∈ s.clk.pulses, e.live .motorOff → s.motorPulse = some e.handle ∧ e.periodic = false
  index : ∀ e ∈ s.clk.pulses, e.live .indexIrq → s.fdc.indexPulse = some e.handle
  distinct : s.clk.pulses.Pairwise fun a b => a.handle ≠ b.handle
  fresh : ∀ e ∈ s.clk.pulses, e.handle < s.clk.nextHandle
  idBuffer : s.fdc.op = .readingAddressData → s.fdc.idIdx < 6

/-! ### The order of the IDAM indexes (R69, R293) -/

/-- Write Track is between its first slot and its commit (R287, R301). -/
def State.writing (s : State) : Bool := s.fdc.busy && s.fdc.cmd == .writeTrack && s.fdc.op == .writingTrack

/-- The event leaves the track under the head in place: it selects nothing, and mounts, loads, ejects or re-encodes nothing
(R452, R453). -/
def Event.keepsTrack : Event → Bool
  | .selectDrive _ _ _ => false
  | .instr (.wrSelect _) _ => false
  | .operator (.mount _ _) _ | .operator (.loadImage _ _ _) _ | .operator (.eject _) _ => false
  | .operator (.writeDescriptor _ _ _ _) _ => false
  | _ => true

/-- Every track's index is in order: ascending, distinct offsets below the length, within the slots (R69); and while Write
Track writes, its new index is in order behind the cursor and inside the track (R293). -/
structure State.IndexInv (s : State) : Prop where
  indexes : ∀ n m, (s.drive n).medium = some m → ∀ T ∈ m.tracks, T.indexOk s.cfg = true
  rising : s.writing = true → ascendingFrom 0 s.fdc.newIndex = true
  behind : s.writing = true → ∀ e ∈ s.fdc.newIndex, e.offset < s.fdc.cursor
  inside : s.writing = true → ∀ T, s.curTrack = some T →
    (∀ e ∈ s.fdc.newIndex, e.offset < T.len) ∧ (s.fdc.cursor ≤ T.len ∨ s.capacity ≤ s.fdc.cursor)

/-! ### Vocabulary of the statements -/

/-- The family of command `k` has a handler for the state (R55, R148): the `on S` headings of 42_type1.md to
44_type3.md. -/
def handles (k : CmdKind) (S : OpStatus) : Bool :=
  match S with
  | .opDone => false
  | .prepare | .nmi => k != .forceInterrupt
  | .typeIStep | .checkVerify | .verifySettle | .verifyTrack => k.isTypeI
  | .searchStart | .seekingIdam | .readingAddressData => k.searches
  | .delay => k.type == .typeII || k.type == .typeIII
  | .checkWriteProtect => k == .writeSector || k == .writeTrack
  | .seekingDam | .readingData | .readCrc => k == .readSector
  | .writeGap | .writingFiller | .writingDam | .writingData | .writeCrc | .writeTrailer => k == .writeSector
  | .seekingIndexHole => k == .readTrack || k == .writeTrack
  | .readingTrack => k == .readTrack
  | .writeTrackDrq | .writingTrack => k == .writeTrack

/-- The pulse entries with those of the given optional handles expired (R144, R305). -/
def expiredAt (ps : List Pulse) (a b : Option Nat) : List Pulse :=
  ps.map fun e => if a = some e.handle ∨ b = some e.handle then { e with expired := true } else e

/-- The one-shot FdcStep entry a transition registers (R147). -/
def commandPulse (handle trigger seq : Nat) : Pulse :=
  { handle := handle, trigger := trigger, cb := .fdcStep, periodic := false, period := 0, expired := false, seq := seq }

/-- What accepting a command byte and beginning the command does to the controller, whatever its type: CR and cmd set,
INTRQ and the arms off (R171, R305), busy on, DRQ and the error flags off (R201, R230). -/
def begun (f : Fdc) (b : Byte) (k : CmdKind) : Fdc :=
  { f with cr := b, cmd := k, intrq := false, indexPulse := none, armI0 := false, armI1 := false, busy := true,
           drq := false, seekErr := false, crcErr := false, lostData := false, wpErr := false, recordType := false }

/-- A controller that has completed its command (R410), with the sequencer's pulse gone. -/
def finished (f : Fdc) : Fdc :=
  { f with busy := false, op := .opDone, cmdPulse := none, intrq := true, waitReq := false }

/-- `s` as an accepted command write leaves it for the command's Prepare: the old index pulse expired (R305), the Host
inside its unit (R141), and `f` the controller. -/
def accepted (s : State) (f : Fdc) : State :=
  { s with clk := { s.clk with pulses := expiredAt s.clk.pulses s.fdc.indexPulse none }, inUnit := true, fdc := f }

/-- `t` is `s` with the controller in state `S` and its pulse `d` ticks ahead under a fresh handle (R147). Which fresh
handle is the model's own (assumption 3). -/
def waitsAfter (s : State) (S : OpStatus) (d : Nat) (t : State) : Prop :=
  ∃ h k, s.clk.nextHandle ≤ h ∧ h < k ∧ t = { s with
    fdc := { s.fdc with op := S, cmdPulse := some h }
    clk := { s.clk with
      pulses := s.clk.pulses ++ [commandPulse h (s.clk.ticks + d) s.clk.nextSeq]
      nextSeq := s.clk.nextSeq + 1
      nextHandle := k } }

/-- `t` is `s` with its command completed (R410): no pulse is registered. -/
def completesAs (s t : State) : Prop :=
  ∃ k, s.clk.nextHandle ≤ k ∧ t = { s with fdc := finished s.fdc, clk := { s.clk with nextHandle := k } }

/-- The controller with an error reported under the one-error rule (R47). -/
def reports (f : Fdc) (e : ErrorFlag) : Fdc := if f.errorCount = 0 then f.markError e else f

/-- The controller with byte `v` placed in DR: lost data when DRQ was still 1, then DRQ, which releases the Host
(R244, R456). -/
def delivered (f : Fdc) (v : Byte) : Fdc :=
  { (if f.drq then reports f .lostData else f) with dr := v, drq := true, waitReq := false }

/-- The drives with the selected drive's head one step further (R200). -/
def headMoved (s : State) (dir : StepDir) : Vector Drive 4 :=
  match s.fdc.selDrive with
  | some n => s.drives.set n { (s.drive n) with physTrack := clampStep s.cfg.maxTrack (s.drive n).physTrack dir }
  | none => s.drives

/-- `t` is `s` after a select of `drive` with these side, density and wait request (R179, R306, R422): the cursor of a running
command turned to another drive or side is taken modulo the new track's length (R452), an armed ready edge raises INTRQ, and
a drive bit (`driveBit`) retriggers the motor. -/
def selects (s : State) (drive : Option (Fin 4)) (side dd wait driveBit : Bool) (t : State) : Prop :=
  ∃ edge,
    (edge = true ↔ (s.fdc.armI1 = true ∧ s.lastReady = true ∧ t.ready = false) ∨
      (s.fdc.armI0 = true ∧ s.lastReady = false ∧ t.ready = true)) ∧
    t.fdc = { s.fdc with
      selDrive := drive, side := side, dd := dd
      cursor := if s.fdc.busy = true ∧ (drive ≠ s.fdc.selDrive ∨ side ≠ s.fdc.side) then s.fdc.cursor % t.trackLen
                else s.fdc.cursor
      intrq := s.fdc.intrq || edge
      waitReq := wait && !edge } ∧
    (if driveBit = false then t = { s with fdc := t.fdc, lastReady := t.ready, inUnit := true }
    else ∃ h k, s.clk.nextHandle ≤ h ∧ h < k ∧ t = { s with
      fdc := t.fdc, lastReady := t.ready, inUnit := true
      motorOn := true, motorPulse := some h, motorIrq := false
      clk := { s.clk with
        pulses := expiredAt s.clk.pulses s.motorPulse none ++
          [{ handle := h, trigger := s.clk.ticks + usToTicks s.cfg s.cfg.motorTimeoutUs, cb := .motorOff,
             periodic := false, period := 0, expired := false, seq := s.clk.nextSeq }]
        nextSeq := s.clk.nextSeq + 1
        nextHandle := k } })

/-- `s` with `track(t, side)` of medium `m`, which drive `n` holds, replaced by `T` (R360). -/
def State.withTrack (s : State) (n : Fin 4) (m : Medium) (t : Nat) (side : Bool) (T : Track) : State :=
  { s with drives := s.drives.set n { (s.drive n) with
      medium := some { m with tracks := m.tracks.set (t * m.sides + side.toNat) T } } }

/-- The raw byte `pos` of `track(t, side)` of drive `n` is one of the `k` raw bytes from the cursor on, in the current
track's circle (R81, R90). -/
def State.underHead (s : State) (k : Nat) (n : Fin 4) (t : Nat) (side : Bool) (pos : Nat) : Prop :=
  s.fdc.selDrive = some n ∧ t = (s.drive n).physTrack ∧ side = s.fdc.side ∧
    ∃ i, i < k ∧ pos = (s.fdc.cursor + i) % s.trackLen

/-- Every raw byte of every medium reads as before. -/
def sameBytes (s s' : State) : Prop :=
  ∀ (n : Fin 4) (t : Nat) (side : Bool) (pos : Nat), s'.trackByte n t side pos = s.trackByte n t side pos

/-! ### How a handler ends (`s` is the state at the handler's entry, `t` the state after it, zero-delay chains
included) -/

/-- The step time of the rate in a command byte (R113, R200). -/
def stepTime (c : Config) (cr : Byte) : Nat := usToTicks c (c.stepUs[(rateField cr).toFin])

/-- R207: with V the verify follows after the settle delay, without it the command completes. -/
def endsTypeI (s t : State) : Prop :=
  if s.fdc.cr.getLsbD 2 then waitsAfter s .verifySettle (usToTicks s.cfg s.cfg.settleUs) t else completesAs s t

/-- R202: Restore, at one test of its loop. -/
def restoreGoes (s t : State) : Prop :=
  if s.trk0 then endsTypeI (s.withFdc { s.fdc with tr := 0 }) t
  else if s.fdc.stepsDone = s.cfg.restoreLimit then completesAs (s.withFdc (reports s.fdc .seekErr)) t
  else
    waitsAfter { s with
        drives := headMoved s .outward
        fdc := { s.fdc with stepsDone := s.fdc.stepsDone + 1, tr := s.fdc.tr - 1, lastDir := .outward } }
      .typeIStep (stepTime s.cfg s.fdc.cr) t

/-- R203: Seek, at one test of its loop. -/
def seekGoes (s t : State) : Prop :=
  if s.fdc.tr = s.fdc.dr then endsTypeI s t
  else if s.fdc.tr < s.fdc.dr then
    waitsAfter { s with drives := headMoved s .inward, fdc := { s.fdc with lastDir := .inward, tr := s.fdc.tr + 1 } }
      .typeIStep (stepTime s.cfg s.fdc.cr) t
  else if s.trk0 then endsTypeI (s.withFdc { s.fdc with lastDir := .outward, tr := 0 }) t
  else
    waitsAfter { s with drives := headMoved s .outward, fdc := { s.fdc with lastDir := .outward, tr := s.fdc.tr - 1 } }
      .typeIStep (stepTime s.cfg s.fdc.cr) t

/-- R204: Step, Step In and Step Out. -/
def stepGoes (s t : State) : Prop :=
  if s.fdc.stepsDone = 1 then endsTypeI s t
  else if s.fdc.lastDir = .outward ∧ s.trk0 then endsTypeI (s.withFdc { s.fdc with tr := 0 }) t
  else
    waitsAfter { s with
        drives := headMoved s s.fdc.lastDir
        fdc := { s.fdc with
          tr := if s.fdc.cr.getLsbD 4 then stepTr s.fdc.tr s.fdc.lastDir else s.fdc.tr
          stepsDone := 1 } }
      .typeIStep (stepTime s.cfg s.fdc.cr) t

/-- R231: an ID search begins at the byte under the head. -/
def searchBegins (s t : State) : Prop :=
  waitsAfter (s.withFdc
      { s.fdc with searchStart := s.clk.ticks, crcSeen := false, idIdx := 0
                   cursor := angle s.cfg s.clk.ticks * s.trackLen / s.cfg.angleScale })
    .seekingIdam (byteTicks s.cfg s.fdc.dd) t

/-- R280: one byte slot of Read Track. -/
def readSlotGoes (s t : State) : Prop :=
  let u := s.withFdc { delivered s.afterRead.fdc s.logicalByte.1 with slot := s.fdc.slot + 1 }
  if s.fdc.slot + 1 < slotsPerRev s.cfg s.fdc.dd then waitsAfter u .readingTrack (byteTicks s.cfg s.fdc.dd) t
  else completesAs u t

/-- R279 for Read Track: the first slot is at the next index pulse, at once when the index is now. -/
def readTrackBegins (s t : State) : Prop :=
  let u := s.withFdc { s.fdc with cursor := 0, slot := 0 }
  if ticksToIndex s.cfg s.clk.ticks = 0 then readSlotGoes u t
  else waitsAfter u .readingTrack (ticksToIndex s.cfg s.clk.ticks) t

/-- R286 on entry: DRQ asks for the first byte, and the window runs. -/
def writeTrackAsks (s t : State) : Prop :=
  waitsAfter (s.withFdc { s.fdc with drq := true, waitReq := false, count := 1 }) .writeTrackDrq
    (s.cfg.wtWindow * byteTicks s.cfg s.fdc.dd) t

/-- R287: one byte slot of Write Track, the last of the revolution with its commit (R292). -/
def writeSlotGoes (s t : State) : Prop :=
  let c : Byte := if s.fdc.drq then 0x00 else s.fdc.dr
  let w := (s.withFdc (if s.fdc.drq then reports s.fdc .lostData else s.fdc)).wtByte c
  match s.fdc.pendingCrcLo with
  | some lo =>
    let u := (s.wtPut lo).withFdc { (s.wtPut lo).fdc with pendingCrcLo := none, slot := s.fdc.slot + 1 }
    if s.fdc.slot + 1 < slotsPerRev s.cfg s.fdc.dd then waitsAfter u .writingTrack (byteTicks s.cfg s.fdc.dd) t
    else completesAs u.wtCommit t
  | none =>
    let u := w.withFdc { w.fdc with slot := s.fdc.slot + 1 }
    if s.fdc.slot + 1 < slotsPerRev s.cfg s.fdc.dd then
      waitsAfter (u.withFdc { u.fdc with drq := true, waitReq := false }) .writingTrack (byteTicks s.cfg s.fdc.dd) t
    else completesAs u.wtCommit t

/-- R279 for Write Track: the first slot is at the next index pulse, at once when the index is now. -/
def writeTrackBegins (s t : State) : Prop :=
  let u := s.withFdc { s.fdc with cursor := 0, slot := 0 }
  if ticksToIndex s.cfg s.clk.ticks = 0 then writeSlotGoes u t
  else waitsAfter u .writingTrack (ticksToIndex s.cfg s.clk.ticks) t

/-- R230 from Delay on, by command. -/
def afterSettle (s t : State) : Prop :=
  match s.fdc.cmd with
  | .readSector | .readAddress => searchBegins s t
  | .writeSector => if s.wpSel then completesAs (s.withFdc (reports s.fdc .wpErr)) t else searchBegins s t
  | .writeTrack => if s.wpSel then completesAs (s.withFdc (reports s.fdc .wpErr)) t else writeTrackAsks s t
  | .readTrack => readTrackBegins s t
  | _ => False

/-- R230: a Type II or III command that starts. -/
def startsTypeII (s t : State) : Prop :=
  if s.ready then
    (if s.fdc.cr.getLsbD 2 then waitsAfter s .delay (usToTicks s.cfg s.cfg.settleUs) t else afterSettle s t)
  else completesAs s t

/-- R246: the next record of a multi-record command, or the end. -/
def nextRecordGoes (s t : State) : Prop :=
  if s.fdc.cr.getLsbD 4 ∧ s.fdc.errorCount = 0 then searchBegins (s.withFdc { s.fdc with sr := s.fdc.sr + 1 }) t
  else completesAs s t

/-- The stored CRC of the ID field just read is good (R209, R235). -/
def idGood (f : Fdc) : Prop := f.crc = halfOf f.idBuf[4] f.idBuf[5]

/-- The ID is the one asked for: track, side when C is set, sector (R235). -/
def idWanted (f : Fdc) : Prop :=
  f.idBuf[0] = f.tr ∧ (f.cr.getLsbD 1 = true → f.idBuf[1] = byteOfBool (f.cr.getLsbD 3)) ∧ f.idBuf[2] = f.sr

end Sys2Proof.Machine
end

