-- ==== Sys2Proof/Certificates/Slice0/Obligations.lean ====
section
/-! DEFINITION. The statements for the provers. Each says in its docstring which rule of the spec it formalises, or that it
rests on a choice of the model and which log entry names it. Those about a command or a port access are about `exec` of the
instruction; those about a sequencer handler are about `exec (.goto S 0)`, the transition that runs the handler of `S` at once
(R147). A full equation, or an answer `waitsAfter` or `completesAs` from a named state, fixes every field of the next state,
so it carries the frame too. -/

open Sys2Proof Sys2Proof.Machine

/-! ### Encoding -/

/-- R117: the decoding rows, as (mask, match, kind); each byte matches exactly one of them, and it is the byte's kind; and the
type of each kind. -/
def Obligations.CommandKinds : Prop :=
  (∀ b : Byte,
    (([(0xF0, 0x00, CmdKind.restore), (0xF0, 0x10, .seek), (0xE0, 0x20, .step), (0xE0, 0x40, .stepIn),
      (0xE0, 0x60, .stepOut), (0xE0, 0x80, .readSector), (0xE0, 0xA0, .writeSector), (0xF0, 0xC0, .readAddress),
      (0xF0, 0xD0, .forceInterrupt), (0xF0, 0xE0, .readTrack), (0xF0, 0xF0, .writeTrack)] :
      List (Byte × Byte × CmdKind)).filter fun row => b &&& row.1 == row.2.1).map (fun row => row.2.2) = [kindOf b]) ∧
  ∀ k : CmdKind,
    (k.type = .typeI ↔ k ∈ [CmdKind.restore, .seek, .step, .stepIn, .stepOut]) ∧
    (k.type = .typeII ↔ k ∈ [CmdKind.readSector, .writeSector]) ∧
    (k.type = .typeIII ↔ k ∈ [CmdKind.readAddress, .readTrack, .writeTrack]) ∧
    (k.type = .typeIV ↔ k = .forceInterrupt)

/-- The four examples of R122, and words of the ports at I/O addresses 0xF0 to 0xF4 (R110): byte 0 is the spec's, byte 1 (0
command, 1 `IN`, 2 `OUT`) is the model's choice (assumption 1). -/
def Obligations.KnownWords : Prop :=
  decode 0xF0 [0x14, 0] = .ok (.seek false true 0) ∧ decode 0xF0 [0x33, 0] = .ok (.step true false false 3) ∧
  decode 0xF0 [0x90, 0] = .ok (.readSector true false false false false) ∧
  decode 0xF0 [0xA1, 0] = .ok (.writeSector false false false false true) ∧
  decode 0xF0 [0xD8, 0] = .ok (.forceInterrupt true false false false) ∧ decode 0xF0 [0xF4, 0] = .ok (.writeTrack false true false false) ∧
  decode 0xF0 [0xF0, 1] = .ok .rdStatus ∧ decode 0xF0 [0xF1, 2, 0x05] = .ok (.wrTrack 0x05) ∧
  decode 0xF0 [0xF4, 2, 0x81] = .ok (.wrSelect 0x81)

/-- Every well-formed instruction is read back from its encoding, also with zero bytes after it; no operand bit is dropped.
The layout beside the table's byte is the model's choice (assumption 1). -/
def Obligations.DecodeOfEncode : Prop :=
  ∀ (base : Byte) (i : Instr) (k : Nat), i.wf = true → decode base (encode base i ++ List.replicate k 0) = .ok i

/-- Every byte string that decodes is the encoding of a well-formed instruction and zero bytes: no two strings but for those
zeros stand for one instruction. The layout is the model's choice (assumption 1). -/
def Obligations.EncodeOfDecode : Prop :=
  ∀ (base : Byte) (bytes : List Byte) (i : Instr), decode base bytes = .ok i →
    i.wf = true ∧ ∃ k, bytes = encode base i ++ List.replicate k 0

/-! ### The step -/

/-- A step runs the decoded instruction: when the Host is free to act and its next word decodes to `i`, the step is `exec i`
with the word consumed; and an instruction placed with `withFetchWord` is the one the very next step runs. -/
def Obligations.StepRunsDecoded : Prop :=
  (∀ (s : State) (bytes : List Byte) (rest : List HostItem) (i : Instr), s.fault = none → s.operatorNow = none →
    s.held = false → s.script = .word bytes :: rest → decode s.cfg.portBase bytes = .ok i →
    step s = exec i { s with script := rest }) ∧
  ∀ (s : State) (nbits w : Nat) (i : Instr), s.fault = none → s.cfg.portBase = 0xF0 → decodeTableWord nbits w = some i →
    step (s.withFetchWord nbits w) = exec i { s with inUnit := s.inUnit || s.held || s.operatorNow.isSome }

/-- R403, R35: with the fault mark set no step is taken, whatever the Host or the Operator does, and no instruction runs. -/
def Obligations.FaultStops : Prop :=
  ∀ (s : State) (r : FaultReason), s.fault = some r →
    step s = .fault (.fatal r) ∧ ∀ i, exec i s = .fault (.fatal r)

/-- R456, R141: while waitReq is 1 and the Host is between units, a step is a wait-state tick: the Host's script stays where
it is, and with nothing due the tick only moves the clock and drops expired entries. -/
def Obligations.HeldTick : Prop :=
  ∀ s : State, s.fault = none → s.operatorNow = none → s.fdc.waitReq = true → s.inUnit = false →
    s.clk.ticks + s.cfg.waitTstates * s.cfg.ticksPerTstate < 2 ^ 64 →
    ∃ t, step s = .next t ∧ t.script = s.script ∧
      t.clk.ticks = s.clk.ticks + s.cfg.waitTstates * s.cfg.ticksPerTstate ∧
      ((∀ e ∈ s.clk.pulses, e.expired = false → s.clk.ticks + s.cfg.waitTstates * s.cfg.ticksPerTstate < e.trigger) →
        t = { s with clk := { s.clk with
          ticks := s.clk.ticks + s.cfg.waitTstates * s.cfg.ticksPerTstate
          pulses := s.clk.pulses.filter fun e => !e.expired } })

/-! ### The register ports -/

/-- R172: a status read returns the composed status, clears INTRQ and changes nothing else. -/
def Obligations.StatusRead : Prop :=
  ∀ s : State, s.fault = none →
    exec .rdStatus s = .next { s with hostData := s.status, fdc := { s.fdc with intrq := false }, inUnit := true }

/-- R181: every bit of the status, in both layouts. -/
def Obligations.StatusBits : Prop :=
  ∀ s : State,
    (s.status.getLsbD 7 = true ↔
      ¬ ∃ n, s.fdc.selDrive = some n ∧ (s.drive n).medium ≠ none ∧ s.motorOn = true) ∧
    s.status.getLsbD 4 = s.fdc.seekErr ∧ s.status.getLsbD 3 = s.fdc.crcErr ∧ s.status.getLsbD 0 = s.fdc.busy ∧
    (s.fdc.statusMode = .typeI →
      (s.status.getLsbD 6 = true ↔
        ∃ n m, s.fdc.selDrive = some n ∧ (s.drive n).medium = some m ∧ m.writeProtected = true) ∧
      s.status.getLsbD 5 = s.fdc.headLoaded ∧
      (s.status.getLsbD 2 = true ↔ ∃ n, s.fdc.selDrive = some n ∧ (s.drive n).physTrack = 0) ∧
      (s.status.getLsbD 1 = true ↔ s.ready = true ∧ angle s.cfg s.clk.ticks < s.cfg.indexPpm)) ∧
    (s.fdc.statusMode = .typeII_III →
      s.status.getLsbD 6 = s.fdc.wpErr ∧ s.status.getLsbD 5 = s.fdc.recordType ∧
      s.status.getLsbD 2 = s.fdc.lostData ∧ s.status.getLsbD 1 = s.fdc.drq)

/-- R173 to R178: the track, sector and data ports, also while busy; both accesses to the data port clear DRQ.
Also R93, R180: a read of the select port reads no state; which byte it returns is left open (93_implementation_defined.md
I11). -/
def Obligations.RegisterPorts : Prop :=
  ∀ (v : Byte) (s : State), s.fault = none →
    exec (.wrTrack v) s = .next { s with fdc := { s.fdc with tr := v }, inUnit := true } ∧
    exec .rdTrack s = .next { s with hostData := s.fdc.tr, inUnit := true } ∧
    exec (.wrSector v) s = .next { s with fdc := { s.fdc with sr := v }, inUnit := true } ∧
    exec .rdSector s = .next { s with hostData := s.fdc.sr, inUnit := true } ∧
    exec (.wrData v) s = .next { s with fdc := { s.fdc with dr := v, drq := false }, inUnit := true } ∧
    exec .rdData s = .next { s with hostData := s.fdc.dr, fdc := { s.fdc with drq := false }, inUnit := true } ∧
    ∃ open8, exec .rdSelect s = .next { s with hostData := open8, inUnit := true }

/-- R179, R306, R452: a select write, and SelectDrive, which leaves the density and the wait request (R170). The drive is
stated for one drive bit and for none (several bits: I12); every drive bit retriggers the motor (R422). That a drive the
controller does not have is selected as none is the model's choice (assumption 25), and that the cursor of R452 is reduced at
the select itself is its reading (assumption 12). Which fresh handle the motor pulse gets is the model's own (assumption 3). -/
def Obligations.SelectWrite : Prop :=
  (∀ (v : Byte) (s : State), s.fault = none → legalConfig s.cfg = true →
    ∃ t, exec (.wrSelect v) s = .next t ∧
      (∀ n : Fin 4, v &&& 0x0F = 1#8 <<< n.val → t.fdc.selDrive = if n.val < s.cfg.numDrives then some n else none) ∧
      (v &&& 0x0F = 0 → t.fdc.selDrive = none) ∧ (s.cfg.numDrives = 4 → t.fdc.selDrive = none → v &&& 0x0F = 0) ∧
      selects s t.fdc.selDrive (v.getLsbD 4) (v.getLsbD 7) (v.getLsbD 6 && !(s.fdc.drq || s.fdc.intrq))
        (decide (v &&& 0x0F ≠ 0)) t) ∧
  ∀ (n : Fin 4) (side : Bool) (rest : List HostItem) (s : State), s.fault = none → legalConfig s.cfg = true →
    s.operatorNow = none → s.held = false → s.script = .selectDrive n side :: rest →
    ∃ t, step s = .next t ∧
      selects { s with script := rest } (if n.val < s.cfg.numDrives then some n else none) side s.fdc.dd s.fdc.waitReq true t

/-- R182, R306, R143: the MotorOff callback, invoked through the zero-delay path of REGISTER_PULSE. -/
def Obligations.MotorTimeout : Prop :=
  ∀ (period : Nat) (s : State), s.fault = none →
    ∃ h k, s.clk.nextHandle ≤ h ∧ h < k ∧ exec (.registerPulse .motorOff 0 false period) s = .next { s with
      motorPulse := none, motorOn := false, motorIrq := true, lastReady := false, hostHandle := h
      clk := { s.clk with nextHandle := k }
      fdc := if s.fdc.armI1 && s.lastReady then { s.fdc with intrq := true, waitReq := false } else s.fdc }

/-- R171: WR_COMMAND runs the command that its byte decodes to, the one whose encoding is that byte with the command selector 0
(the selector is the model's choice, assumption 1); when it is accepted (not busy, or Force Interrupt), CR and cmd take the
byte and its kind, at the same tick and with no Fatal, and the old Force Interrupt arms are gone (R305); any other command is
dropped completely while busy (R98). -/
def Obligations.CommandWrite : Prop :=
  ∀ (b : Byte) (s : State),
    exec (.wrCommand b) s = exec (decodeCommand b) s ∧ encode s.cfg.portBase (decodeCommand b) = [b, 0] ∧
    (s.fault = none → legalConfig s.cfg = true → s.fdc.busy = false ∨ kindOf b = .forceInterrupt →
      ∃ t, exec (.wrCommand b) s = .next t ∧ t.fdc.cr = b ∧ t.fdc.cmd = kindOf b ∧ t.clk.ticks = s.clk.ticks ∧
        t.fault = none ∧
        (kindOf b ≠ .forceInterrupt → t.fdc.armI0 = false ∧ t.fdc.armI1 = false ∧ t.fdc.indexPulse = none)) ∧
    (s.fault = none → s.fdc.busy = true → kindOf b ≠ .forceInterrupt →
      exec (.wrCommand b) s = .next { s with inUnit := true })

/-- R212, R259, R80: no port access and no command write changes a byte of any track; bytes move only when pulses fire. -/
def Obligations.PortAccessKeepsBytes : Prop :=
  ∀ (i : Instr) (s t : State), legalConfig s.cfg = true → i.portAccess = true → exec i s = .next t → sameBytes s t

/-! ### Type I -/

/-- R171, R201 to R203: an accepted RESTORE begins, with TR = 0xFF and DR = 0, an accepted SEEK begins with TR and DR as they
are, and each makes the first test of its loop. -/
def Obligations.RestoreAndSeek : Prop :=
  ∀ (h v : Bool) (r : BitVec 2) (s : State), s.fault = none → s.fdc.busy = false → legalConfig s.cfg = true →
    (∃ t, exec (.restore h v r) s = .next t ∧
      restoreGoes (accepted s
        { begun s.fdc (byteRestore h v r) .restore with
          statusMode := .typeI, headLoaded := h, stepsDone := 0, tr := 0xFF, dr := 0x00 }) t) ∧
    (∃ t, exec (.seek h v r) s = .next t ∧
      seekGoes (accepted s
        { begun s.fdc (byteSeek h v r) .seek with statusMode := .typeI, headLoaded := h, stepsDone := 0 }) t)

/-- R171, R201, R204 to R206: accepted STEP, STEPIN and STEPOUT begin and step once. -/
def Obligations.StepCommands : Prop :=
  ∀ (u h v : Bool) (r : BitVec 2) (s : State), s.fault = none → s.fdc.busy = false → legalConfig s.cfg = true →
    (∃ t, exec (.step u h v r) s = .next t ∧
      stepGoes (accepted s
        { begun s.fdc (byteStep u h v r) .step with statusMode := .typeI, headLoaded := h, stepsDone := 0 }) t) ∧
    (∃ t, exec (.stepIn u h v r) s = .next t ∧
      stepGoes (accepted s
        { begun s.fdc (byteStepIn u h v r) .stepIn with
          statusMode := .typeI, headLoaded := h, stepsDone := 0, lastDir := .inward }) t) ∧
    (∃ t, exec (.stepOut u h v r) s = .next t ∧
      stepGoes (accepted s
        { begun s.fdc (byteStepOut u h v r) .stepOut with
          statusMode := .typeI, headLoaded := h, stepsDone := 0, lastDir := .outward }) t)

/-- R202 to R204, R207: the TypeIStep handler of a running Type I command, at every test of its loop. -/
def Obligations.TypeISteps : Prop :=
  ∀ s : State, s.fault = none → s.fdc.busy = true → legalConfig s.cfg = true → s.fdc.cmd.isTypeI = true →
    ∃ t, exec (.goto .typeIStep 0) s = .next t ∧
      (s.fdc.cmd = .restore → restoreGoes s t) ∧ (s.fdc.cmd = .seek → seekGoes s t) ∧
      (s.fdc.cmd = .step ∨ s.fdc.cmd = .stepIn ∨ s.fdc.cmd = .stepOut → stepGoes s t)

/-- R207, R209: the verify phase. CheckVerify waits out the settle delay when V is set and completes otherwise; VerifySettle
begins the search (R231); VerifyTrack resumes the search on another track's ID, and on a bad CRC, which it notes, and else
completes. -/
def Obligations.VerifyPhase : Prop :=
  ∀ s : State, s.fault = none → s.fdc.busy = true → legalConfig s.cfg = true → s.fdc.cmd.isTypeI = true →
    (∃ t, exec (.goto .checkVerify 0) s = .next t ∧ endsTypeI s t) ∧
    (∃ t, exec (.goto .verifySettle 0) s = .next t ∧ searchBegins s t) ∧
    (∃ t, exec (.goto .verifyTrack 0) s = .next t ∧
      (s.fdc.idBuf[0] ≠ s.fdc.tr → waitsAfter s .seekingIdam (byteTicks s.cfg s.fdc.dd) t) ∧
      (s.fdc.idBuf[0] = s.fdc.tr → ¬ idGood s.fdc →
        waitsAfter (s.withFdc { s.fdc with crcSeen := true }) .seekingIdam (byteTicks s.cfg s.fdc.dd) t) ∧
      (s.fdc.idBuf[0] = s.fdc.tr → idGood s.fdc → completesAs s t))

/-! ### Types II and III: the start and the ID search -/

/-- R171, R230, R231: accepted READ_SECTOR and WRITE_SECTOR start. -/
def Obligations.SectorCommands : Prop :=
  ∀ (m sd e c x : Bool) (s : State), s.fault = none → s.fdc.busy = false → legalConfig s.cfg = true →
    (∃ t, exec (.readSector m sd e c x) s = .next t ∧
      startsTypeII (accepted s
        { begun s.fdc (byteReadSector m sd e c x) .readSector with
          statusMode := .typeII_III, headLoaded := true, count := 0 }) t) ∧
    (∃ t, exec (.writeSector m sd e c x) s = .next t ∧
      startsTypeII (accepted s
        { begun s.fdc (byteWriteSector m sd e c x) .writeSector with
          statusMode := .typeII_III, headLoaded := true, count := 0 }) t)

/-- R171, R230, R270, R278, R279, R285, R286: accepted READ_ADDRESS, READ_TRACK and WRITE_TRACK start. -/
def Obligations.TrackCommands : Prop :=
  ∀ (x3 e x1 x0 : Bool) (s : State), s.fault = none → s.fdc.busy = false → legalConfig s.cfg = true →
    (∃ t, exec (.readAddress x3 e x1 x0) s = .next t ∧
      startsTypeII (accepted s
        { begun s.fdc (byteReadAddress x3 e x1 x0) .readAddress with
          statusMode := .typeII_III, headLoaded := true, count := 0 }) t) ∧
    (∃ t, exec (.readTrack x3 e x1 x0) s = .next t ∧
      startsTypeII (accepted s
        { begun s.fdc (byteReadTrack x3 e x1 x0) .readTrack with
          statusMode := .typeII_III, headLoaded := true, count := 0 }) t) ∧
    (∃ t, exec (.writeTrack x3 e x1 x0) s = .next t ∧
      startsTypeII (accepted s
        { begun s.fdc (byteWriteTrack x3 e x1 x0) .writeTrack with
          statusMode := .typeII_III, headLoaded := true, count := 0 }) t)

/-- R230: Delay, after the settle time, goes on by command, with the write-protect check before any transfer. -/
def Obligations.SettleEnds : Prop :=
  ∀ s : State, s.fault = none → s.fdc.busy = true → legalConfig s.cfg = true → s.fdc.count = 0 →
    s.fdc.cmd = .readSector ∨ s.fdc.cmd = .writeSector ∨ s.fdc.cmd = .readAddress ∨ s.fdc.cmd = .readTrack ∨
      s.fdc.cmd = .writeTrack →
    ∃ t, exec (.goto .delay 0) s = .next t ∧ afterSettle s t

/-- R89: reading a logical byte. On a hit of the IDAM index the byte is 0xFE and the cursor is realigned behind the entry of
the least offset; else the byte is the raw byte under the cursor, or P_PAD when the track is absent. -/
def Obligations.LogicalRead : Prop :=
  ∀ s : State,
    let covered : IdamEntry → Prop := fun e => ∃ T i, s.curTrack = some T ∧ e ∈ T.index ∧ i < s.stride ∧
      e.offset = (s.fdc.cursor + i) % T.len ∧ e.dd = s.fdc.dd ∧ T.data.read e.offset = 0xFE
    s.afterRead = s.withFdc { s.fdc with
      cursor := s.afterRead.fdc.cursor, recent := #v[s.fdc.recent[1], s.fdc.recent[2], s.logicalByte.1] } ∧
    (∀ e, covered e → (∀ e', covered e' → e.offset ≤ e'.offset) →
      s.logicalByte = (0xFE, true) ∧ s.afterRead.fdc.cursor = (e.offset + s.stride) % s.trackLen) ∧
    ((∀ e, ¬ covered e) →
      s.logicalByte = (s.memRead s.fdc.cursor, false) ∧
      s.afterRead.fdc.cursor = (s.fdc.cursor + s.stride) % s.trackLen) ∧
    (∀ T, s.curTrack = some T → s.memRead s.fdc.cursor = T.data.read (s.fdc.cursor % T.len)) ∧
    (s.curTrack = none → s.memRead s.fdc.cursor = s.cfg.pad)

/-- R232, R233: a firing of SeekingIDAM: the ceiling first, then one logical byte. -/
def Obligations.SeekingIdam : Prop :=
  ∀ s : State, s.fault = none → s.fdc.busy = true → legalConfig s.cfg = true → s.fdc.cmd.searches = true →
    ∃ t, exec (.goto .seekingIdam 0) s = .next t ∧
      (if s.cfg.revLimit * tpr s.cfg ≤ s.clk.ticks - s.fdc.searchStart then
        completesAs (s.withFdc (reports s.fdc (if s.fdc.crcSeen then .crcErr else .seekErr))) t
      else if s.logicalByte.2 then
        waitsAfter (s.withFdc { s.afterRead.fdc with
            crc := crcUpdate s.cfg.crcPoly (seedOf s.cfg s.fdc.dd) 0xFE, idIdx := 0 })
          .readingAddressData (byteTicks s.cfg s.fdc.dd) t
      else waitsAfter s.afterRead .seekingIdam (byteTicks s.cfg s.fdc.dd) t)

/-- R234, R235, R209: one byte of the ID field of a verify, Read Sector or Write Sector; after the sixth, the comparison. -/
def Obligations.ReadingId : Prop :=
  ∀ s : State, s.fault = none → s.fdc.busy = true → legalConfig s.cfg = true → s.fdc.idIdx < 6 →
    s.fdc.cmd.isTypeI = true ∨ s.fdc.cmd = .readSector ∨ s.fdc.cmd = .writeSector →
    let g := { s.afterRead.fdc with
      idBuf := s.fdc.idBuf.setIfInBounds s.fdc.idIdx s.logicalByte.1
      idIdx := s.fdc.idIdx + 1
      crc := if s.fdc.idIdx + 1 ≤ 4 then crcUpdate s.cfg.crcPoly s.fdc.crc s.logicalByte.1 else s.fdc.crc }
    let b := byteTicks s.cfg s.fdc.dd
    let wanted := if s.fdc.cmd.isTypeI then g.idBuf[0] = g.tr else idWanted g
    ∃ t, exec (.goto .readingAddressData 0) s = .next t ∧
      (s.fdc.idIdx < 5 → waitsAfter (s.withFdc g) .readingAddressData b t) ∧
      (s.fdc.idIdx = 5 → ¬ wanted → waitsAfter (s.withFdc g) .seekingIdam b t) ∧
      (s.fdc.idIdx = 5 → wanted → ¬ idGood g → waitsAfter (s.withFdc { g with crcSeen := true }) .seekingIdam b t) ∧
      (s.fdc.idIdx = 5 → wanted → idGood g → s.fdc.cmd.isTypeI = true → completesAs (s.withFdc g) t) ∧
      (s.fdc.idIdx = 5 → wanted → idGood g → s.fdc.cmd = .readSector →
        waitsAfter (s.withFdc { g with secLen := 128 <<< (g.idBuf[3].toNat % 4), count := 0 }) .seekingDam b t) ∧
      (s.fdc.idIdx = 5 → wanted → idGood g → s.fdc.cmd = .writeSector →
        waitsAfter (s.withFdc { g with secLen := 128 <<< (g.idBuf[3].toNat % 4), count := 0 }) .writeGap b t)

/-! ### Read Sector -/

/-- R241, R242: one byte of the data-mark window. -/
def Obligations.SeekingDam : Prop :=
  ∀ s : State, s.fault = none → s.fdc.busy = true → legalConfig s.cfg = true → s.fdc.cmd = .readSector →
    let v := s.logicalByte.1
    let b := byteTicks s.cfg s.fdc.dd
    let mark := (v = 0xF8 ∨ v = 0xF9 ∨ v = 0xFA ∨ v = 0xFB) ∧ (s.fdc.dd = false ∨ s.fdc.recent = #v[0xA1, 0xA1, 0xA1])
    let limit := if s.fdc.dd then s.cfg.damLimitDd else s.cfg.damLimitSd
    ∃ t, exec (.goto .seekingDam 0) s = .next t ∧
      (mark → waitsAfter (s.withFdc { s.afterRead.fdc with
          recordType := v == 0xF8 || v == 0xF9, crc := crcUpdate s.cfg.crcPoly (seedOf s.cfg s.fdc.dd) v, count := 0 })
        .readingData b t) ∧
      (¬ mark → limit ≤ s.fdc.count + 1 →
        completesAs (s.withFdc (reports { s.afterRead.fdc with count := s.fdc.count + 1 } .seekErr)) t) ∧
      (¬ mark → s.fdc.count + 1 < limit →
        waitsAfter (s.withFdc { s.afterRead.fdc with count := s.fdc.count + 1 }) .seekingDam b t)

/-- R243, R244, R47: one data byte of Read Sector is delivered to DR under DRQ, a byte not taken in time being lost data. -/
def Obligations.ReadingData : Prop :=
  ∀ s : State, s.fault = none → s.fdc.busy = true → legalConfig s.cfg = true → s.fdc.cmd = .readSector →
    let v := s.logicalByte.1
    let b := byteTicks s.cfg s.fdc.dd
    let g := delivered { s.afterRead.fdc with crc := crcUpdate s.cfg.crcPoly s.fdc.crc v } v
    ∃ t, exec (.goto .readingData 0) s = .next t ∧
      (if s.fdc.count + 1 < s.fdc.secLen then
        waitsAfter (s.withFdc { g with count := s.fdc.count + 1 }) .readingData b t
      else waitsAfter (s.withFdc { g with count := 0 }) .readCrc b t)

/-- R245, R246: the two stored CRC bytes; at the second a CRC error ends the command, and a good CRC goes to the next
record. -/
def Obligations.ReadCrc : Prop :=
  ∀ s : State, s.fault = none → s.fdc.busy = true → legalConfig s.cfg = true → s.fdc.cmd = .readSector →
    let g := { s.afterRead.fdc with
      crc := crcUpdate s.cfg.crcPoly s.fdc.crc s.logicalByte.1, count := s.fdc.count + 1 }
    ∃ t, exec (.goto .readCrc 0) s = .next t ∧
      (if s.fdc.count + 1 < 2 then waitsAfter (s.withFdc g) .readCrc (byteTicks s.cfg s.fdc.dd) t
      else if g.crc = 0 then nextRecordGoes (s.withFdc g) t
      else completesAs (s.withFdc (reports g .crcErr)) t)

/-! ### Write Sector -/

/-- R84, R90, R70: writing a logical byte. The stride's raw bytes from the cursor on, in the current track's circle, become
`v`; the cursor moves on and the medium is changed. Of the whole state nothing else differs: the track keeps its length and
its IDAM index, and every other track and the medium's other fields stay. An absent track is written nowhere. -/
def Obligations.LogicalWrite : Prop :=
  ∀ (v : Byte) (s : State), s.Inv →
    let g := { s.fdc with cursor := (s.fdc.cursor + s.stride) % s.trackLen }
    (s.curTrack = none → s.writeLogical v = { s with fdc := g }) ∧
    (∀ n m T, s.fdc.selDrive = some n → (s.drive n).medium = some m → s.curTrack = some T →
      ∃ T', s.writeLogical v =
          { s.withTrack n { m with changed := true } (s.drive n).physTrack s.fdc.side T' with fdc := g } ∧
        (s.writeLogical v).curTrack = some T' ∧ T'.len = T.len ∧ T'.index = T.index) ∧
    (∀ n t side pos, ¬ s.underHead s.stride n t side pos →
      (s.writeLogical v).trackByte n t side pos = s.trackByte n t side pos) ∧
    (∀ n t side pos, s.underHead s.stride n t side pos → s.trackByte n t side pos ≠ none →
      (s.writeLogical v).trackByte n t side pos = some v)

/-- R251, R456: one byte of the gap window; DRQ asks for the first data byte, and a byte not supplied ends the command with
lost data and nothing written. -/
def Obligations.WriteGap : Prop :=
  ∀ s : State, s.fault = none → s.fdc.busy = true → legalConfig s.cfg = true → s.fdc.cmd = .writeSector →
    let g := { s.afterRead.fdc with
      count := s.fdc.count + 1
      drq := s.fdc.drq || s.fdc.count + 1 == s.cfg.wsDrqAt
      waitReq := s.fdc.waitReq && s.fdc.count + 1 != s.cfg.wsDrqAt }
    let window := if s.fdc.dd then s.cfg.wsWindowDd else s.cfg.wsWindowSd
    ∃ t, exec (.goto .writeGap 0) s = .next t ∧
      (if s.fdc.count + 1 < window then waitsAfter (s.withFdc g) .writeGap (byteTicks s.cfg s.fdc.dd) t
      else if g.drq then completesAs (s.withFdc (reports g .lostData)) t
      else waitsAfter (s.withFdc { g with count := 0 }) .writingFiller (byteTicks s.cfg s.fdc.dd) t)

/-- R252, R253: the zeros, the sync bytes in double density, and the data mark, which starts the CRC. -/
def Obligations.WriteMark : Prop :=
  ∀ s : State, s.fault = none → s.fdc.busy = true → legalConfig s.cfg = true → s.fdc.cmd = .writeSector →
    let b := byteTicks s.cfg s.fdc.dd
    let zeros := if s.fdc.dd then s.cfg.wsZerosDd else s.cfg.wsZerosSd
    let mark : Byte := if s.fdc.cr.getLsbD 0 then 0xF8 else 0xFB
    (∃ t, exec (.goto .writingFiller 0) s = .next t ∧
      (if s.fdc.count + 1 < zeros then
        waitsAfter ((s.writeLogical 0x00).withFdc { (s.writeLogical 0x00).fdc with count := s.fdc.count + 1 })
          .writingFiller b t
      else
        waitsAfter ((s.writeLogical 0x00).withFdc { (s.writeLogical 0x00).fdc with count := 0 }) .writingDam b t)) ∧
    (∃ t, exec (.goto .writingDam 0) s = .next t ∧
      (if s.fdc.dd = true ∧ s.fdc.count < 3 then
        waitsAfter ((s.writeLogical 0xA1).withFdc { (s.writeLogical 0xA1).fdc with count := s.fdc.count + 1 })
          .writingDam b t
      else
        waitsAfter ((s.writeLogical mark).withFdc { (s.writeLogical mark).fdc with
            crc := crcUpdate s.cfg.crcPoly (seedOf s.cfg s.fdc.dd) mark, count := 0 })
          .writingData b t))

/-- R254, R47: one data byte of Write Sector: DR, or 0x00 with lost data when DR was not supplied. -/
def Obligations.WritingData : Prop :=
  ∀ s : State, s.fault = none → s.fdc.busy = true → legalConfig s.cfg = true → s.fdc.cmd = .writeSector →
    let v : Byte := if s.fdc.drq then 0x00 else s.fdc.dr
    let f := if s.fdc.drq then reports s.fdc .lostData else s.fdc
    let u := s.writeLogical v
    let g := { f with
      cursor := u.fdc.cursor, crc := crcUpdate s.cfg.crcPoly s.fdc.crc v, count := s.fdc.count + 1 }
    ∃ t, exec (.goto .writingData 0) s = .next t ∧
      (if s.fdc.count + 1 < s.fdc.secLen then
        waitsAfter { s with drives := u.drives, fdc := { g with drq := true, waitReq := false } } .writingData
          (byteTicks s.cfg s.fdc.dd) t
      else waitsAfter { s with drives := u.drives, fdc := { g with count := 0 } } .writeCrc (byteTicks s.cfg s.fdc.dd) t)

/-- R256, R246: the CRC, high byte first, and the trailer byte 0xFF, after which the next record follows. -/
def Obligations.WriteEnd : Prop :=
  ∀ s : State, s.fault = none → s.fdc.busy = true → legalConfig s.cfg = true → s.fdc.cmd = .writeSector →
    let b := byteTicks s.cfg s.fdc.dd
    let hi := s.writeLogical (s.fdc.crc.extractLsb' 8 8)
    let lo := s.writeLogical (s.fdc.crc.extractLsb' 0 8)
    (∃ t, exec (.goto .writeCrc 0) s = .next t ∧
      (if s.fdc.count = 0 then waitsAfter (hi.withFdc { hi.fdc with count := 1 }) .writeCrc b t
      else waitsAfter lo .writeTrailer b t)) ∧
    (∃ t, exec (.goto .writeTrailer 0) s = .next t ∧ nextRecordGoes (s.writeLogical 0xFF) t)

/-- R259, R250: a handler of Write Sector changes no byte but the logical byte under the head. -/
def Obligations.SectorWriteFrame : Prop :=
  ∀ (S : OpStatus) (s t : State), s.Inv → s.fdc.busy = true → s.fdc.cmd = .writeSector →
    exec (.goto S 0) s = .next t →
    ∀ n tr side pos, ¬ s.underHead s.stride n tr side pos → t.trackByte n tr side pos = s.trackByte n tr side pos

/-! ### Read Address, Read Track, Write Track -/

/-- R271, R272: one ID byte of Read Address, delivered to the Host; after the sixth, SR takes the track field. -/
def Obligations.ReadAddressByte : Prop :=
  ∀ s : State, s.fault = none → s.fdc.busy = true → legalConfig s.cfg = true → s.fdc.cmd = .readAddress →
    s.fdc.idIdx < 6 →
    let v := s.logicalByte.1
    let g := delivered { s.afterRead.fdc with
      idBuf := s.fdc.idBuf.setIfInBounds s.fdc.idIdx v
      idIdx := s.fdc.idIdx + 1
      crc := if s.fdc.idIdx + 1 ≤ 4 then crcUpdate s.cfg.crcPoly s.fdc.crc v else s.fdc.crc } v
    ∃ t, exec (.goto .readingAddressData 0) s = .next t ∧
      (s.fdc.idIdx < 5 → waitsAfter (s.withFdc g) .readingAddressData (byteTicks s.cfg s.fdc.dd) t) ∧
      (s.fdc.idIdx = 5 → idGood g → completesAs (s.withFdc { g with sr := g.idBuf[0] }) t) ∧
      (s.fdc.idIdx = 5 → ¬ idGood g → completesAs (s.withFdc (reports { g with sr := g.idBuf[0] } .crcErr)) t)

/-- R279, R280: Read Track begins at the index pulse and delivers one byte a slot for one revolution. -/
def Obligations.ReadTrackSlots : Prop :=
  ∀ s : State, s.fault = none → s.fdc.busy = true → legalConfig s.cfg = true → s.fdc.cmd = .readTrack →
    (∃ t, exec (.goto .seekingIndexHole 0) s = .next t ∧ readTrackBegins s t) ∧
    (∃ t, exec (.goto .readingTrack 0) s = .next t ∧ readSlotGoes s t)

/-- R286, R279: the first-byte window of Write Track: on entry DRQ; at its end lost data with nothing written, or the format
state preset and the wait for the index pulse, or on an index tick the first slot at once. And SeekingIndexHole under Write
Track on its own. The CRC preset is R286's 0xFFFF, whatever P_SEED_SD is (assumption 27). -/
def Obligations.WriteTrackWindow : Prop :=
  ∀ s : State, s.fault = none → s.fdc.busy = true → legalConfig s.cfg = true → s.fdc.cmd = .writeTrack →
    (∃ t, exec (.goto .writeTrackDrq 0) s = .next t ∧
      (s.fdc.count = 0 → writeTrackAsks s t) ∧
      (s.fdc.count ≠ 0 → s.fdc.drq = true → completesAs (s.withFdc (reports s.fdc .lostData)) t) ∧
      (s.fdc.count ≠ 0 → s.fdc.drq = false →
        writeTrackBegins (s.withFdc { s.fdc with
          newIndex := [], pendingCrcLo := none, crcResetAllowed := true, crc := 0xFFFF, recent := #v[0, 0, 0] }) t)) ∧
    ∃ t, exec (.goto .seekingIndexHole 0) s = .next t ∧ writeTrackBegins s t

/-- R288, R285: `wtPut`. The cursor moves on and `v` is a recent byte. With the cursor inside the track or at its end the
stride's raw bytes from the cursor on become `v`, the buffer growing up to the capacity, and the medium is changed when a byte
went in; every other track and the medium's other fields stay. Past the capacity the byte is dropped, and an absent track is
written nowhere: then only the cursor and the recent bytes differ. (Between a track's end and the capacity the cursor stands
only after a medium change, assumption 12.) -/
def Obligations.WriteTrackPut : Prop :=
  ∀ (v : Byte) (s : State), s.Inv →
    let g := { s.fdc with cursor := s.fdc.cursor + s.stride, recent := #v[s.fdc.recent[1], s.fdc.recent[2], v] }
    (s.curTrack = none → s.wtPut v = { s with fdc := g }) ∧
    ∀ (n : Fin 4) (m : Medium) (T : Track), s.fdc.selDrive = some n → (s.drive n).medium = some m → s.curTrack = some T →
      let cap := m.declLen - s.cfg.trackHdr
      (cap ≤ s.fdc.cursor → s.wtPut v = { s with fdc := g }) ∧
      (s.fdc.cursor ≤ T.len →
        (∃ T', s.wtPut v =
            { s.withTrack n { m with changed := m.changed || decide (s.fdc.cursor < cap) } (s.drive n).physTrack s.fdc.side
                T' with fdc := g } ∧
          (s.wtPut v).curTrack = some T' ∧ T'.index = T.index ∧
          T'.len = max T.len (min cap (s.fdc.cursor + s.stride)) ∧
          ∀ pos, pos < T'.len → T'.data.read pos =
            if s.fdc.cursor ≤ pos ∧ pos < s.fdc.cursor + s.stride then v else T.data.read pos) ∧
        ∀ n' t side pos, ¬ (n' = n ∧ t = (s.drive n).physTrack ∧ side = s.fdc.side) →
          (s.wtPut v).trackByte n' t side pos = s.trackByte n' t side pos)

/-- R119, R289, R290: the code bytes of Write Track. `u` is the state with the code's CRC restart applied, `v` the byte that
is written and added to the CRC; an ID mark enters the new index. The restart is at R290's 0xFFFF, whatever P_SEED_SD is
(assumption 27). -/
def Obligations.WriteTrackCodes : Prop :=
  ∀ (c : Byte) (s : State),
    let hiOut := s.wtPut (s.fdc.crc.extractLsb' 8 8)
    (c = 0xF7 → s.wtByte c = hiOut.withFdc { hiOut.fdc with
      pendingCrcLo := some (s.fdc.crc.extractLsb' 0 8), crcResetAllowed := true }) ∧
    (c ≠ 0xF7 →
      let v : Byte := if s.fdc.dd ∧ c = 0xF5 then 0xA1 else if s.fdc.dd ∧ c = 0xF6 then 0xC2 else c
      let sdMark := s.fdc.dd = false ∧ (c = 0xF8 ∨ c = 0xF9 ∨ c = 0xFA ∨ c = 0xFB ∨ c = 0xFE)
      let ddSync := s.fdc.dd = true ∧ c = 0xF5 ∧ s.fdc.crcResetAllowed = true
      let crc0 : Half := if sdMark ∨ ddSync then 0xFFFF else s.fdc.crc
      let allowed := if s.fdc.dd then decide (c ≠ 0xF5) else s.fdc.crcResetAllowed
      let idMark := v = 0xFE ∧ (s.fdc.dd = false ∨ s.fdc.recent = #v[0xA1, 0xA1, 0xA1]) ∧ s.curTrack ≠ none ∧
        s.fdc.cursor < s.capacity ∧ s.fdc.newIndex.length < s.cfg.idamSlots
      s.wtByte c = (s.wtPut v).withFdc { (s.wtPut v).fdc with
        crc := crcUpdate s.cfg.crcPoly crc0 v
        crcResetAllowed := allowed
        newIndex := if idMark then s.fdc.newIndex ++ [{ offset := s.fdc.cursor, dd := s.fdc.dd }] else s.fdc.newIndex })

/-- R287: one byte slot of Write Track before the last: the pending CRC byte, or the Host's byte, 0x00 with lost data when
it was not supplied; DRQ again for a byte that was consumed. -/
def Obligations.WriteTrackSlot : Prop :=
  ∀ s : State, s.fault = none → s.fdc.busy = true → legalConfig s.cfg = true → s.fdc.cmd = .writeTrack →
    s.fdc.slot + 1 < slotsPerRev s.cfg s.fdc.dd →
    let b := byteTicks s.cfg s.fdc.dd
    let c : Byte := if s.fdc.drq then 0x00 else s.fdc.dr
    let f := if s.fdc.drq then reports s.fdc .lostData else s.fdc
    let w := (s.withFdc f).wtByte c
    ∃ t, exec (.goto .writingTrack 0) s = .next t ∧
      (∀ lo, s.fdc.pendingCrcLo = some lo →
        waitsAfter ((s.wtPut lo).withFdc { (s.wtPut lo).fdc with pendingCrcLo := none, slot := s.fdc.slot + 1 })
          .writingTrack b t) ∧
      (s.fdc.pendingCrcLo = none →
        waitsAfter (w.withFdc { w.fdc with slot := s.fdc.slot + 1, drq := true, waitReq := false }) .writingTrack b t)

/-- R287, R292: the last slot of Write Track commits: the track's length becomes the written extent within the capacity, its
bytes below it stay, its index is the new one, every other track and the medium's flags stay, and the command completes. -/
def Obligations.WriteTrackCommit : Prop :=
  (∀ s : State, s.curTrack = none → s.wtCommit = s) ∧
  (∀ (s : State) (n : Fin 4) (m : Medium) (T : Track), s.fdc.selDrive = some n → (s.drive n).medium = some m →
    s.curTrack = some T → min s.fdc.cursor (m.declLen - s.cfg.trackHdr) ≤ T.len →
    ∃ T', s.wtCommit = s.withTrack n m (s.drive n).physTrack s.fdc.side T' ∧ s.wtCommit.curTrack = some T' ∧
      T'.len = min s.fdc.cursor (m.declLen - s.cfg.trackHdr) ∧
      T'.index = s.fdc.newIndex ∧ ∀ pos, pos < T'.len → T'.data.read pos = T.data.read pos) ∧
  ∀ s : State, s.fault = none → s.fdc.busy = true → legalConfig s.cfg = true → s.fdc.cmd = .writeTrack →
    slotsPerRev s.cfg s.fdc.dd ≤ s.fdc.slot + 1 →
    let c : Byte := if s.fdc.drq then 0x00 else s.fdc.dr
    let f := if s.fdc.drq then reports s.fdc .lostData else s.fdc
    let w := (s.withFdc f).wtByte c
    ∃ t, exec (.goto .writingTrack 0) s = .next t ∧
      (∀ lo, s.fdc.pendingCrcLo = some lo → completesAs
        ((s.wtPut lo).withFdc { (s.wtPut lo).fdc with pendingCrcLo := none, slot := s.fdc.slot + 1 }).wtCommit t) ∧
      (s.fdc.pendingCrcLo = none → completesAs (w.withFdc { w.fdc with slot := s.fdc.slot + 1 }).wtCommit t)

/-- R410, R210: the NMI handler, shared by every family: busy off, INTRQ on, the wait state released, no pulse left; DRQ, DR,
the error flags and the layout stay. -/
def Obligations.Completion : Prop :=
  ∀ s : State, s.fault = none → s.fdc.busy = true → s.fdc.cmd ≠ .forceInterrupt →
    ∃ k, s.clk.nextHandle ≤ k ∧ exec (.goto .nmi 0) s = .next { s with
      clk := { s.clk with nextHandle := k }
      fdc := { s.fdc with busy := false, op := .opDone, intrq := true, waitReq := false, cmdPulse := none } }

/-! ### Force Interrupt -/

/-- R300, R301, R303 to R305: FORCE_INTERRUPT, on a busy and on an idle controller, with every condition bit. -/
def Obligations.ForceInterrupt : Prop :=
  ∀ (i3 i2 i1 i0 : Bool) (s : State), s.fault = none → legalConfig s.cfg = true →
    let d := ticksToIndex s.cfg s.clk.ticks
    let cut := if s.fdc.busy then s.fdc.cmdPulse else none
    let writing := s.fdc.busy = true ∧ s.fdc.cmd = .writeTrack ∧ s.fdc.op = .writingTrack
    ∃ t, exec (.forceInterrupt i3 i2 i1 i0) s = .next t ∧
      t.fdc = { s.fdc with
        cr := byteForceInterrupt i3 i2 i1 i0, cmd := .forceInterrupt, busy := false
        op := if s.fdc.busy then .opDone else s.fdc.op
        cmdPulse := if s.fdc.busy then none else s.fdc.cmdPulse
        statusMode := if s.fdc.busy then s.fdc.statusMode else .typeI
        intrq := i3, waitReq := s.fdc.waitReq && !i3
        indexPulse := t.fdc.indexPulse, armI1 := i1, armI0 := i0 } ∧
      (i2 = false → t.fdc.indexPulse = none ∧
        t.clk = { s.clk with pulses := expiredAt s.clk.pulses s.fdc.indexPulse cut }) ∧
      (i2 = true → ∃ h k, s.clk.nextHandle ≤ h ∧ h < k ∧ t.fdc.indexPulse = some h ∧
        t.clk = { s.clk with
          pulses := expiredAt s.clk.pulses s.fdc.indexPulse cut ++
            [{ handle := h, trigger := s.clk.ticks + (if d = 0 then tpr s.cfg else d), cb := .indexIrq, periodic := true,
               period := tpr s.cfg, expired := false, seq := s.clk.nextSeq }]
          nextSeq := s.clk.nextSeq + 1
          nextHandle := k }) ∧
      (writing → t.drives = s.wtAbort.drives) ∧ (¬ writing → t.drives = s.drives) ∧
      t = { s with fdc := t.fdc, clk := t.clk, drives := t.drives, lastReady := s.ready, inUnit := true }

/-- R293: what a Write Track cut short leaves: of the whole state only the current track's index differs, now the new entries
and then the old ones beyond the cursor whose byte is still 0xFE, cut to P_IDAM_SLOTS; without a current track nothing
differs. -/
def Obligations.WriteTrackAbort : Prop :=
  (∀ s : State, s.curTrack = none → s.wtAbort = s) ∧
  ∀ (s : State) (n : Fin 4) (m : Medium) (T : Track), s.fdc.selDrive = some n → (s.drive n).medium = some m →
    s.curTrack = some T →
    let T' := { T with index := (s.fdc.newIndex ++ T.index.filter fun e =>
      decide (s.fdc.cursor ≤ e.offset) && decide (e.offset < T.len) && T.data.read e.offset == 0xFE).take s.cfg.idamSlots }
    s.wtAbort = s.withTrack n m (s.drive n).physTrack s.fdc.side T' ∧ s.wtAbort.curTrack = some T' ∧ sameBytes s s.wtAbort

/-! ### The scheduler -/

/-- R143, R403: REGISTER_PULSE with a positive delay inserts one entry under a fresh handle, which it returns; cyclic
zero-delay scheduling is a caller error, marked for good; a zero delay inserts nothing and invokes the callback now: IndexIrq
raises INTRQ and releases a held Host (R302), External changes nothing (R36), FdcStep runs the handler of the state the
controller is in, as `goto` to that state does (R147, R148); MotorOff is MotorTimeout's. Which fresh handle it is (assumption
3), and that a caller error still returns one (assumption 18), is the model's own. -/
def Obligations.RegisterPulse : Prop :=
  ∀ (cb : Callback) (delay : Nat) (periodic : Bool) (period : Nat) (s : State), s.fault = none →
    (0 < delay → (periodic = true → 0 < period) →
      ∃ h k, s.clk.nextHandle ≤ h ∧ h < k ∧ exec (.registerPulse cb delay periodic period) s = .next { s with
        hostHandle := h
        clk := { s.clk with
          pulses := s.clk.pulses ++ [{ handle := h, trigger := s.clk.ticks + delay, cb := cb, periodic := periodic,
                                       period := period, expired := false, seq := s.clk.nextSeq }]
          nextSeq := s.clk.nextSeq + 1
          nextHandle := k } }) ∧
    (periodic = true → delay = 0 ∨ period = 0 →
      ∃ h k, s.clk.nextHandle ≤ h ∧ h < k ∧ exec (.registerPulse cb delay periodic period) s = .next { s with
        hostHandle := h
        clk := { s.clk with nextHandle := k }
        fault := some (if period = 0 then .zeroPeriod else .zeroDelayPeriodic) }) ∧
    (∃ h k, s.clk.nextHandle ≤ h ∧ h < k ∧ exec (.registerPulse .external 0 false period) s = .next { s with
      hostHandle := h, clk := { s.clk with nextHandle := k } }) ∧
    (∃ h k, s.clk.nextHandle ≤ h ∧ h < k ∧ exec (.registerPulse .indexIrq 0 false period) s = .next { s with
      hostHandle := h, clk := { s.clk with nextHandle := k }, fdc := { s.fdc with intrq := true, waitReq := false } }) ∧
    (legalConfig s.cfg = true →
      ∃ h t, s.clk.nextHandle ≤ h ∧ h < t.clk.nextHandle ∧ exec (.goto s.fdc.op 0) s = .next t ∧
        exec (.registerPulse .fdcStep 0 false period) s = .next { t with hostHandle := h })

/-- R144: EXPIRE marks the entries of its handle and does nothing else. -/
def Obligations.Expire : Prop :=
  ∀ (h : Nat) (s : State), s.fault = none →
    exec (.expire h) s = .next { s with clk := { s.clk with
      pulses := s.clk.pulses.map fun e => { e with expired := e.expired || e.handle == h } } }

/-- R145, R149, R150: DISPATCH. With nothing due it only drops the expired entries. Else it fires first the due entry of the
least (trigger, seq), consumed or re-armed one period later, and then goes on from the state its callback leaves, or stops
when the callback raised a Fatal. -/
def Obligations.DispatchOrder : Prop :=
  ∀ s : State, s.fault = none → (∀ e ∈ s.clk.pulses, e.periodic = true → 0 < e.period) →
    let live := s.clk.pulses.filter fun e => !e.expired
    ((∀ e ∈ live, s.clk.ticks < e.trigger) → exec .dispatch s = .next { s with clk := { s.clk with pulses := live } }) ∧
    ∀ e ∈ live, e.trigger ≤ s.clk.ticks →
      (∀ e' ∈ live, e'.trigger ≤ s.clk.ticks → e' = e ∨ e.trigger < e'.trigger ∨ (e.trigger = e'.trigger ∧ e.seq < e'.seq)) →
      let u := ({ s with clk :=
        (if e.periodic then
          { s.clk with
            pulses := live.erase e ++ [{ e with trigger := e.trigger + e.period, seq := s.clk.nextSeq }]
            nextSeq := s.clk.nextSeq + 1 }
        else { s.clk with pulses := live.erase e }) } : State).invoke e.cb
      exec .dispatch s = if u.fault = none then exec .dispatch u else .next u

/-- R141, R142: ADVANCE moves the clock by the unit's T-states (P_WAIT_TSTATES when the Host is held), ends the unit, and
dispatches at the new tick; no callback moves the clock. Past 2^64 ticks it is the Fatal ClockOverflow instead. -/
def Obligations.Advance : Prop :=
  ∀ (n : Nat) (s : State), s.fault = none →
    let now := s.clk.ticks + (if s.fdc.waitReq = true ∧ s.inUnit = false then s.cfg.waitTstates else n) * s.cfg.ticksPerTstate
    (2 ^ 64 ≤ now → exec (.advance n) s = .next { s with fault := some .clockOverflow }) ∧
    (now < 2 ^ 64 →
      exec (.advance n) s = exec .dispatch { s with clk := { s.clk with ticks := now }, inUnit := false } ∧
      ∃ t, exec (.advance n) s = .next t ∧ t.clk.ticks = now ∧ t.inUnit = false ∧ t.script = s.script ∧
        t.operator = s.operator ∧ t.cfg = s.cfg)

/-- R147, R148, R403, R55: `goto S after d`. With a positive delay it waits; with none FdcStep runs at once, which is the Fatal
StaleCommandPulse when busy is 0, and the Fatal NoTransition in every state for which the running command's family has no
handler. Only the mark, the state, the spent pulse and the handle counter differ then. -/
def Obligations.Goto : Prop :=
  ∀ (S : OpStatus) (d : Nat) (s : State), s.fault = none →
    let stops := fun (r : FaultReason) => ∃ k, s.clk.nextHandle ≤ k ∧ exec (.goto S 0) s = .next { s with
      fdc := { s.fdc with op := S, cmdPulse := none }, clk := { s.clk with nextHandle := k }, fault := some r }
    (0 < d → ∃ t, exec (.goto S d) s = .next t ∧ waitsAfter s S d t) ∧
    (s.fdc.busy = false → stops .staleCommandPulse) ∧
    (s.fdc.busy = true → handles s.fdc.cmd S = false → stops .noTransition)

/-! ### Reset, power-on and media -/

/-- R442: the power-on state. -/
def Obligations.PowerOn : Prop :=
  State.reset.clk.ticks = 0 ∧ State.reset.clk.nextSeq = 0 ∧ State.reset.clk.pulses = [] ∧ State.reset.fault = none ∧
  (∀ n, (State.reset.drive n).medium = none ∧ (State.reset.drive n).physTrack = 0) ∧
  State.reset.motorOn = false ∧ State.reset.motorPulse = none ∧ State.reset.motorIrq = false ∧
  State.reset.lastReady = false ∧
  State.reset.fdc =
    { cr := 0x03, tr := 0x00, sr := 0x01, dr := 0x00, busy := false, drq := false, seekErr := false, crcErr := false
      lostData := false, wpErr := false, recordType := false, headLoaded := false, statusMode := .typeI, intrq := false
      waitReq := false, selDrive := some 0, side := false, dd := false, op := .opDone, cmd := .restore, cmdPulse := none
      cursor := 0, searchStart := 0, crcSeen := false, idBuf := #v[0, 0, 0, 0, 0, 0], idIdx := 0, crc := 0, count := 0
      secLen := 0, recent := #v[0, 0, 0], stepsDone := 0, lastDir := .inward, crcResetAllowed := false
      pendingCrcLo := none, newIndex := [], slot := 0, indexPulse := none, armI0 := false, armI1 := false }

/-- R440, R441: the hardware reset, from outside or by the Host's reset line: every FDC pulse expired, an interrupted Write
Track aborted, every register at its reset value, every head at track 0; the clock, the External pulses, the media and the
fault mark stay. -/
def Obligations.HardReset : Prop :=
  ∀ s : State,
    let s1 := if s.fdc.busy = true ∧ s.fdc.cmd = .writeTrack ∧ s.fdc.op = .writingTrack then s.wtAbort else s
    let t := { s with
      fdc := State.reset.fdc
      clk := { s.clk with pulses := s.clk.pulses.map fun e => { e with
        expired := e.expired || (e.cb == .fdcStep || e.cb == .motorOff || e.cb == .indexIrq) } }
      drives := s1.drives.map fun d => { d with physTrack := 0 }
      motorOn := false, motorPulse := none, motorIrq := false, lastReady := false }
    s.operate .reset = .next t ∧
    ∀ rest, s.fault = none → s.operatorNow = none → s.held = false → s.script = .resetLine :: rest →
      step s = .next { t with script := rest, inUnit := true }

/-- R443 with R181: after power-on, and after any hardware reset, the status reads 0x84; but R181's write-protect bit shows
when drive 0, which a reset selects, holds a write-protected medium, and then it reads 0xC4 (assumption 22). -/
def Obligations.StatusAfterReset : Prop :=
  (∃ t, exec .rdStatus State.reset = .next t ∧ t.hostData = 0x84) ∧
  ∀ s : State, s.fault = none →
    ∃ u t, s.operate .reset = .next u ∧ exec .rdStatus u = .next t ∧
      ((∃ m, (s.drive 0).medium = some m ∧ m.writeProtected = true) → t.hostData = 0xC4) ∧
      ((¬ ∃ m, (s.drive 0).medium = some m ∧ m.writeProtected = true) → t.hostData = 0x84)

/-- R375, R367, R306, R372, R368 to R370, R336: the Operator's actions on a drive of the controller. Mount, eject and a load,
which ejects on a format error, change only that drive's medium, the ready edge and its interrupt; write-protect and path
change that field, and without a medium nothing (R372 says so of write-protect; of the path it is assumption 28); a save
returns the file and clears changed (R70); a descriptor-level write re-encodes the track (matched by the first descriptor
with its ID fields, assumption 14). A due action happens between units, a save only in OpDone (R369, R373; the order of
waiting actions is assumption 5). An action on a drive the controller does not have is refused (the model's choice,
assumption 25). -/
def Obligations.MountAndEject : Prop :=
  (∀ (n : Fin 4) (s : State), n.val < s.cfg.numDrives →
    let put : Option Medium → State → Prop := fun md t =>
      let edge := (s.fdc.armI1 && s.lastReady && !t.ready) || (s.fdc.armI0 && !s.lastReady && t.ready)
      t = { s with
        drives := s.drives.set n { (s.drive n) with medium := md }
        lastReady := t.ready
        fdc := { s.fdc with intrq := s.fdc.intrq || edge, waitReq := s.fdc.waitReq && !edge } }
    let edited : (Medium → Medium) → State := fun f =>
      { s with drives := s.drives.set n { (s.drive n) with medium := (s.drive n).medium.map f } }
    (∀ m : Medium, m.wf s.cfg = true → ∃ t, s.operate (.mount n m) = .next t ∧ put (some { m with changed := false }) t) ∧
    (∃ t, s.operate (.eject n) = .next t ∧ put none t) ∧
    (∀ path file m, loadImage s.cfg path file = .ok m →
      ∃ t, s.operate (.loadImage n path file) = .next t ∧ put (some { m with changed := false }) t) ∧
    (∀ path file e, loadImage s.cfg path file = .error e →
      ∃ t, s.operate (.loadImage n path file) = .next t ∧ put none t) ∧
    (∀ b, s.operate (.setWriteProtect n b) = .next (edited fun m => { m with writeProtected := b })) ∧
    (∀ path, s.operate (.setPath n path) = .next (edited fun m => { m with path := path })) ∧
    (∀ m, (s.drive n).medium = some m → s.operate (.save n) =
      .next { edited (fun m => { m with changed := false }) with savedImage := saveImage s.cfg m }) ∧
    ∀ (m : Medium) (t : Nat) (side : Bool) (T T' : Track) (d x : SectorDescriptor) (before behind : List SectorDescriptor),
      (s.drive n).medium = some m → m.track t side = some T →
      decodeTrack s.cfg T m.singleByte = before ++ x :: behind →
      x.track = d.track ∧ x.side = d.side ∧ x.sector = d.sector →
      (∀ y ∈ before, ¬ (y.track = d.track ∧ y.side = d.side ∧ y.sector = d.sector)) →
      encodeTrack s.cfg (before ++ d :: behind) d.dd (m.declLen - s.cfg.trackHdr) m.singleByte = some T' →
      s.operate (.writeDescriptor n t side d) = .next (s.withTrack n { m with changed := true } t side T')) ∧
  (∀ (a : OperatorAction) (n : Fin 4) (s : State), a.drive = some n → s.cfg.numDrives ≤ n.val →
    s.operate a = .refused .noSuchDrive) ∧
  ∀ (a : OperatorAction) (due : Nat) (rest : List (Nat × OperatorAction)) (s : State), s.operator = (due, a) :: rest →
    (∀ n, a = .save n → s.fdc.op ≠ .opDone → s.operatorNow = none) ∧
    (s.fault = none → due ≤ s.clk.ticks → s.inUnit = false → (∀ n, a = .save n → s.fdc.op = .opDone) →
      step s = ({ s with operator := rest } : State).operate a)

/-- R366, R368: a medium in form whose tracks fill their records (as every loaded one does) is, saved and loaded again, the
same medium with its changed flag cleared. The premises on the parameters hold of the defaults of R9: the header sizes, and
pointers that fit 14 bits. That the loaded medium has the path it is loaded under is the model's reading (assumption 23). -/
def Obligations.LoadOfSave : Prop :=
  ∀ (c : Config) (path : String) (m : Medium), m.wf c = true → c.imageHdr = 16 → c.trackHdr = 2 * c.idamSlots →
    0 < c.trackHdr → c.idamBase = c.trackHdr → c.maxTrack < 255 → c.trackLenMax ≤ 0x4000 →
    (∀ T ∈ m.tracks, T.len = m.declLen - c.trackHdr) →
    loadImage c path (saveImage c m) = .ok { m with changed := false, path := path }

/-! ### The codec -/

/-- R322, R321: for every seed and byte string, running the CRC over the stored pair, high byte first, leaves 0; and for a
generator with constant term 1, as P_CRC_POLY has, it leaves 0 for no other pair: the two tests of a reader agree. -/
def Obligations.CrcResidue : Prop :=
  ∀ (poly seed : Half) (m : List Byte),
    let c := crcBytes poly seed m
    crcBytes poly seed (m ++ [c.extractLsb' 8 8, c.extractLsb' 0 8]) = 0 ∧
    (poly.getLsbD 0 = true → ∀ hi lo, crcBytes poly seed (m ++ [hi, lo]) = 0 ↔ halfOf hi lo = c)

/-- R335, R326 to R333: Decode of what Encode wrote gives the descriptors back, but for those without a data mark, whose payload
Encode leaves out (R333) and Decode returns empty (R328); and where every descriptor has a data mark, Encode of Decode of the
track is the track. The premises: the mark windows of the canonical layouts within the DAM limits (they are: 38 ≤ 43,
18 ≤ 30), and no double density on a single-byte medium (I7). -/
def Obligations.DecodeOfEncodeTrack : Prop :=
  ∀ (c : Config) (ds : List SectorDescriptor) (dd : Bool) (cap : Nat) (singleByte : Bool) (T : Track),
    38 ≤ c.damLimitDd → c.damLimitDd ≤ 46 → 18 ≤ c.damLimitSd → c.damLimitSd ≤ 30 → (dd && singleByte) = false →
    encodeTrack c ds dd cap singleByte = some T →
    decodeTrack c T singleByte =
      ds.map (fun d => if d.dam = none then { d with payload := [], dataCrcErr := false } else d) ∧
    ((∀ d ∈ ds, d.dam ≠ none) → encodeTrack c (decodeTrack c T singleByte) dd cap singleByte = some T)

/-! ### Invariants -/

/-- The invariants hold of the power-on state. -/
def Obligations.InvAtReset : Prop := State.reset.Inv ∧ State.reset.SeqInv ∧ State.reset.IndexInv

/-- R30, R32, R33, R47, R51, R65, R68, R69, R153 (a), R154: every step that answers a next state keeps the invariant, whatever
the Host and the Operator do. Of R69 it keeps the buffers and the number of index entries; that the entries ascend below the
length is StepKeepsIndexOrder's, because a selection or a medium changed during Write Track can break it (I16, I17). -/
def Obligations.StepKeepsInv : Prop :=
  ∀ s t : State, s.Inv → step s = .next t → t.Inv

/-- R57, R153 (b) and (c), R403, R458: every step whose instruction is not a raw scheduler call keeps the sequencer's
invariant too, and raises no Fatal but ClockOverflow. -/
def Obligations.StepKeepsSeqInv : Prop :=
  ∀ s t : State, s.Inv → s.SeqInv → (∀ i u, s.nextEvent = .instr i u → i.rawCall = false) → step s = .next t →
    t.SeqInv ∧ (t.fault = none ∨ t.fault = some .clockOverflow)

/-- R69, R293: every step whose instruction is not a raw scheduler call, and which leaves the track under the head in place
while Write Track writes, keeps every index in order. -/
def Obligations.StepKeepsIndexOrder : Prop :=
  ∀ s t : State, s.Inv → s.SeqInv → s.IndexInv → (∀ i u, s.nextEvent = .instr i u → i.rawCall = false) →
    (s.writing = true → s.nextEvent.keepsTrack = true) → step s = .next t → t.IndexInv

/-- R71, R200: whatever instruction runs, the drives that are not selected keep their head position and their medium, every
byte of it. -/
def Obligations.OtherDrivesKept : Prop :=
  ∀ (i : Instr) (s t : State), exec i s = .next t → ∀ n, s.fdc.selDrive ≠ some n → t.drive n = s.drive n
end

