-- ==== Sys2Proof/Laws/Memory.lean ====
section
/-! SUPPORT. The laws of the track buffer: a read after a write, every other position as before, and the canonical form
kept by every operation. -/

namespace Sys2Proof.Machine

/-! ### The canonical form -/

theorem Memory.wfFrom_cons {lo k : Nat} {v : Byte} {rest : Memory} :
    Memory.wfFrom lo ((k, v) :: rest) = true ↔ lo ≤ k ∧ v ≠ blankByte ∧ Memory.wfFrom (k + 1) rest = true := by
  simp [Memory.wfFrom, and_assoc]

theorem Memory.wfFrom_mono {m : Memory} : ∀ {lo lo' : Nat}, lo' ≤ lo → Memory.wfFrom lo m = true →
    Memory.wfFrom lo' m = true := by
  cases m with
  | nil => intros; rfl
  | cons c rest =>
    intro lo lo' h hw
    rw [Memory.wfFrom_cons] at hw ⊢
    exact ⟨by omega, hw.2⟩

/-- Below its first entry a canonical memory reads blank. -/
theorem Memory.read_of_lt {m : Memory} : ∀ {lo a : Nat}, Memory.wfFrom lo m = true → a < lo → m.read a = blankByte := by
  induction m with
  | nil => intros; rfl
  | cons c rest ih =>
    obtain ⟨k, v⟩ := c
    intro lo a hw ha
    rw [Memory.wfFrom_cons] at hw
    have hk : k ≠ a := by omega
    simp only [Memory.read, hk, if_false]
    exact ih hw.2.2 (by omega)

/-! ### push -/

theorem Memory.push_wf {lo a : Nat} {v : Byte} {rest : Memory} (h : lo ≤ a)
    (hw : Memory.wfFrom (a + 1) rest = true) : Memory.wfFrom lo (Memory.push a v rest) = true := by
  unfold Memory.push
  split
  · exact Memory.wfFrom_mono (by omega) hw
  · rename_i hv
    exact Memory.wfFrom_cons.mpr ⟨h, hv, hw⟩

theorem Memory.push_read {a b : Nat} {v : Byte} {rest : Memory} (hw : Memory.wfFrom (a + 1) rest = true) :
    (Memory.push a v rest).read b = if a = b then v else rest.read b := by
  unfold Memory.push
  split
  · rename_i hv
    split
    · rename_i hab
      rw [hv, ← hab]
      exact Memory.read_of_lt hw (by omega)
    · rfl
  · rfl

theorem Memory.push_all {a : Nat} {v : Byte} {rest : Memory} {p : Host.Cell → Bool} (h : p (a, v) = true)
    (hr : rest.all p = true) : (Memory.push a v rest).all p = true := by
  unfold Memory.push
  split
  · exact hr
  · simp [h, hr]

/-! ### write -/

theorem Memory.write_wfFrom {m : Memory} : ∀ {lo a : Nat} {v : Byte}, Memory.wfFrom lo m = true → lo ≤ a →
    Memory.wfFrom lo (m.write a v) = true := by
  induction m with
  | nil => intro lo a v _ h; exact Memory.push_wf h rfl
  | cons c rest ih =>
    obtain ⟨k, w⟩ := c
    intro lo a v hw h
    have hw' := Memory.wfFrom_cons.mp hw
    simp only [Memory.write]
    split
    · exact Memory.push_wf h (Memory.wfFrom_cons.mpr ⟨by omega, hw'.2⟩)
    · split
      · rename_i hak
        exact Memory.push_wf h (hak ▸ hw'.2.2)
      · exact Memory.wfFrom_cons.mpr ⟨hw'.1, hw'.2.1, ih hw'.2.2 (by omega)⟩

/-- A write keeps the canonical form. -/
theorem Memory.write_wf {m : Memory} (a : Nat) (v : Byte) (h : m.wf = true) : (m.write a v).wf = true :=
  Memory.write_wfFrom h (Nat.zero_le a)

theorem Memory.read_write_from {m : Memory} : ∀ {lo : Nat} (a b : Nat) (v : Byte), Memory.wfFrom lo m = true →
    (m.write a v).read b = if a = b then v else m.read b := by
  induction m with
  | nil => intro lo a b v _; exact Memory.push_read rfl
  | cons c rest ih =>
    obtain ⟨k, w⟩ := c
    intro lo a b v hw
    have hw' := Memory.wfFrom_cons.mp hw
    simp only [Memory.write]
    split
    · exact Memory.push_read (Memory.wfFrom_cons.mpr ⟨by omega, hw'.2⟩)
    · split
      · rename_i hak
        subst hak
        rw [Memory.push_read hw'.2.2]
        by_cases hab : a = b
        · simp [hab]
        · simp [Memory.read, hab]
      · rename_i h1 h2
        simp only [Memory.read, ih a b v hw'.2.2]
        by_cases hkb : k = b
        · have : ¬ a = b := by omega
          simp [hkb, this]
        · simp [hkb]

/-- A read after a write: the value at the written position, every other position as before. -/
theorem Memory.read_write {m : Memory} (a b : Nat) (v : Byte) (h : m.wf = true) :
    (m.write a v).read b = if a = b then v else m.read b :=
  Memory.read_write_from a b v h

theorem Memory.write_all {p : Host.Cell → Bool} {m : Memory} : ∀ {a : Nat} {v : Byte}, p (a, v) = true →
    m.all p = true → (m.write a v).all p = true := by
  induction m with
  | nil => intro a v h _; exact Memory.push_all h rfl
  | cons c rest ih =>
    obtain ⟨k, w⟩ := c
    intro a v h hm
    have hm' : p (k, w) = true ∧ rest.all p = true := by simpa using hm
    simp only [Memory.write]
    split
    · exact Memory.push_all h hm
    · split
      · exact Memory.push_all h hm'.2
      · simp only [List.all_cons, hm'.1, ih h hm'.2, Bool.and_self]

/-! ### below -/

theorem Memory.below_wfFrom {m : Memory} {n : Nat} : ∀ {lo : Nat}, Memory.wfFrom lo m = true →
    Memory.wfFrom lo (m.below n) = true := by
  induction m with
  | nil => intros; rfl
  | cons c rest ih =>
    obtain ⟨k, v⟩ := c
    intro lo hw
    have hw' := Memory.wfFrom_cons.mp hw
    by_cases hk : k < n
    · have : Memory.below n ((k, v) :: rest) = (k, v) :: Memory.below n rest := by simp [Memory.below, hk]
      rw [this]
      exact Memory.wfFrom_cons.mpr ⟨hw'.1, hw'.2.1, ih hw'.2.2⟩
    · have : Memory.below n ((k, v) :: rest) = Memory.below n rest := by simp [Memory.below, hk]
      rw [this]
      exact Memory.wfFrom_mono (by omega) (ih hw'.2.2)

theorem Memory.below_wf {m : Memory} (n : Nat) (h : m.wf = true) : (m.below n).wf = true := Memory.below_wfFrom h

theorem Memory.below_all (m : Memory) (n : Nat) : (m.below n).all (fun c => decide (c.1 < n)) = true := by
  simp [Memory.below]

/-- Truncation reads as before below the cut. -/
theorem Memory.read_below {m : Memory} {n a : Nat} (h : a < n) : (m.below n).read a = m.read a := by
  induction m with
  | nil => rfl
  | cons c rest ih =>
    obtain ⟨k, v⟩ := c
    by_cases hk : k < n
    · have : Memory.below n ((k, v) :: rest) = (k, v) :: Memory.below n rest := by simp [Memory.below, hk]
      rw [this]
      simp only [Memory.read, ih]
    · have : Memory.below n ((k, v) :: rest) = Memory.below n rest := by simp [Memory.below, hk]
      have hka : ¬ k = a := by omega
      rw [this]
      simp only [Memory.read, hka, if_false, ih]

/-! ### ofBytes -/

theorem Memory.ofBytes_wfFrom : ∀ (bs : List Byte) (a : Nat), Memory.wfFrom a (Memory.ofBytes a bs) = true
  | [], _ => rfl
  | _ :: rest, a => Memory.push_wf (Nat.le_refl a) (Memory.ofBytes_wfFrom rest (a + 1))

theorem Memory.ofBytes_wf (bs : List Byte) : (Memory.ofBytes 0 bs).wf = true := Memory.ofBytes_wfFrom bs 0

/-- The bytes a memory was made of are read back. -/
theorem Memory.read_ofBytes : ∀ (bs : List Byte) (a i : Nat), (Memory.ofBytes a bs).read (a + i) = bs.getD i blankByte
  | [], _, _ => by simp [Memory.ofBytes, Memory.read]
  | v :: rest, a, i => by
    rw [Memory.ofBytes, Memory.push_read (Memory.ofBytes_wfFrom rest (a + 1))]
    cases i with
    | zero => simp
    | succ i =>
      have h : ¬ a = a + (i + 1) := by omega
      have e : a + (i + 1) = a + 1 + i := by omega
      rw [if_neg h, e, Memory.read_ofBytes rest (a + 1) i]
      simp

theorem Memory.ofBytes_all : ∀ (bs : List Byte) (a n : Nat), a + bs.length ≤ n →
    (Memory.ofBytes a bs).all (fun c => decide (c.1 < n)) = true
  | [], _, _, _ => rfl
  | v :: rest, a, n, h => by
    simp only [List.length_cons] at h
    exact Memory.push_all (by simpa using (by omega : a < n)) (Memory.ofBytes_all rest (a + 1) n (by omega))

/-! ### Equal reads are equal data -/

theorem Memory.ext_from : ∀ (m m' : Memory) (lo : Nat), Memory.wfFrom lo m = true → Memory.wfFrom lo m' = true →
    (∀ a, m.read a = m'.read a) → m = m'
  | [], [], _, _, _, _ => rfl
  | [], (k, v) :: rest, lo, _, hw, h => by
    have := (Memory.wfFrom_cons.mp hw).2.1
    have e := h k
    simp only [Memory.read, if_true] at e
    exact absurd e.symm this
  | (k, v) :: rest, [], lo, hw, _, h => by
    have := (Memory.wfFrom_cons.mp hw).2.1
    have e := h k
    simp only [Memory.read, if_true] at e
    exact absurd e this
  | (k, v) :: rest, (k', v') :: rest', lo, hw, hw', h => by
    have c := Memory.wfFrom_cons.mp hw
    have c' := Memory.wfFrom_cons.mp hw'
    have hk : k = k' := by
      rcases Nat.lt_trichotomy k k' with hlt | heq | hgt
      · have e := h k
        have hn : ¬ k' = k := by omega
        simp only [Memory.read, if_true, hn, if_false] at e
        rw [Memory.read_of_lt c'.2.2 (by omega)] at e
        exact absurd e c.2.1
      · exact heq
      · have e := h k'
        have hn : ¬ k = k' := by omega
        simp only [Memory.read, if_true, hn, if_false] at e
        rw [Memory.read_of_lt c.2.2 (by omega)] at e
        exact absurd e.symm c'.2.1
    subst hk
    have hv : v = v' := by simpa [Memory.read] using h k
    subst hv
    have hr : rest = rest' := by
      refine Memory.ext_from rest rest' (k + 1) c.2.2 c'.2.2 fun a => ?_
      by_cases hka : k = a
      · subst hka
        rw [Memory.read_of_lt c.2.2 (by omega), Memory.read_of_lt c'.2.2 (by omega)]
      · have e := h a
        simpa only [Memory.read, hka, if_false] using e
    rw [hr]

/-- Canonical memories that read the same everywhere are equal. -/
theorem Memory.ext {m m' : Memory} (h : m.wf = true) (h' : m'.wf = true) (e : ∀ a, m.read a = m'.read a) : m = m' :=
  Memory.ext_from m m' 0 h h' e

/-! ### Buffers -/

/-- A buffer whose written positions stay inside it keeps its form. -/
theorem Track.bufferOk_write {cap : Nat} {T : Track} (h : T.bufferOk cap = true) {a : Nat} (ha : a < T.len) (v : Byte) :
    ({ T with data := T.data.write a v } : Track).bufferOk cap = true := by
  simp only [Track.bufferOk, Bool.and_eq_true, decide_eq_true_eq] at h ⊢
  exact ⟨⟨h.1.1, Memory.write_wf a v h.1.2⟩, Memory.write_all (by simpa using ha) h.2⟩

/-- The state after reset holds no track at all, so its memory is canonical. -/
theorem State.reset_media (n : Fin 4) : (State.reset.drive n).medium = none := by
  fin_cases n <;> rfl

end Sys2Proof.Machine
end

