-- ==== Sys2Proof/Laws/State.lean ====
section
/-! SUPPORT. One lemma per field per update of the state, true by rfl, so that no proof unfolds a record update. -/

namespace Sys2Proof.Machine

variable (s : State)

/-! ### Replacing the controller -/

@[simp] theorem State.withFdc_cfg (f : Fdc) : (s.withFdc f).cfg = s.cfg := rfl
@[simp] theorem State.withFdc_clk (f : Fdc) : (s.withFdc f).clk = s.clk := rfl
@[simp] theorem State.withFdc_fdc (f : Fdc) : (s.withFdc f).fdc = f := rfl
@[simp] theorem State.withFdc_drives (f : Fdc) : (s.withFdc f).drives = s.drives := rfl
@[simp] theorem State.withFdc_motorOn (f : Fdc) : (s.withFdc f).motorOn = s.motorOn := rfl
@[simp] theorem State.withFdc_motorPulse (f : Fdc) : (s.withFdc f).motorPulse = s.motorPulse := rfl
@[simp] theorem State.withFdc_motorIrq (f : Fdc) : (s.withFdc f).motorIrq = s.motorIrq := rfl
@[simp] theorem State.withFdc_lastReady (f : Fdc) : (s.withFdc f).lastReady = s.lastReady := rfl
@[simp] theorem State.withFdc_fault (f : Fdc) : (s.withFdc f).fault = s.fault := rfl
@[simp] theorem State.withFdc_script (f : Fdc) : (s.withFdc f).script = s.script := rfl
@[simp] theorem State.withFdc_operator (f : Fdc) : (s.withFdc f).operator = s.operator := rfl
@[simp] theorem State.withFdc_inUnit (f : Fdc) : (s.withFdc f).inUnit = s.inUnit := rfl
@[simp] theorem State.withFdc_hostData (f : Fdc) : (s.withFdc f).hostData = s.hostData := rfl
@[simp] theorem State.withFdc_hostHandle (f : Fdc) : (s.withFdc f).hostHandle = s.hostHandle := rfl
@[simp] theorem State.withFdc_savedImage (f : Fdc) : (s.withFdc f).savedImage = s.savedImage := rfl

/-! ### Replacing one drive -/

@[simp] theorem State.setDrive_cfg (n : Fin 4) (d : Drive) : (s.setDrive n d).cfg = s.cfg := rfl
@[simp] theorem State.setDrive_clk (n : Fin 4) (d : Drive) : (s.setDrive n d).clk = s.clk := rfl
@[simp] theorem State.setDrive_fdc (n : Fin 4) (d : Drive) : (s.setDrive n d).fdc = s.fdc := rfl
@[simp] theorem State.setDrive_drives (n : Fin 4) (d : Drive) : (s.setDrive n d).drives = s.drives.set n d := rfl
@[simp] theorem State.setDrive_motorOn (n : Fin 4) (d : Drive) : (s.setDrive n d).motorOn = s.motorOn := rfl
@[simp] theorem State.setDrive_motorPulse (n : Fin 4) (d : Drive) : (s.setDrive n d).motorPulse = s.motorPulse := rfl
@[simp] theorem State.setDrive_motorIrq (n : Fin 4) (d : Drive) : (s.setDrive n d).motorIrq = s.motorIrq := rfl
@[simp] theorem State.setDrive_lastReady (n : Fin 4) (d : Drive) : (s.setDrive n d).lastReady = s.lastReady := rfl
@[simp] theorem State.setDrive_fault (n : Fin 4) (d : Drive) : (s.setDrive n d).fault = s.fault := rfl
@[simp] theorem State.setDrive_script (n : Fin 4) (d : Drive) : (s.setDrive n d).script = s.script := rfl
@[simp] theorem State.setDrive_operator (n : Fin 4) (d : Drive) : (s.setDrive n d).operator = s.operator := rfl
@[simp] theorem State.setDrive_inUnit (n : Fin 4) (d : Drive) : (s.setDrive n d).inUnit = s.inUnit := rfl
@[simp] theorem State.setDrive_hostData (n : Fin 4) (d : Drive) : (s.setDrive n d).hostData = s.hostData := rfl
@[simp] theorem State.setDrive_hostHandle (n : Fin 4) (d : Drive) : (s.setDrive n d).hostHandle = s.hostHandle := rfl
@[simp] theorem State.setDrive_savedImage (n : Fin 4) (d : Drive) : (s.setDrive n d).savedImage = s.savedImage := rfl

/-! ### Taking a handle -/

@[simp] theorem State.takeHandle_cfg : (s.takeHandle).cfg = s.cfg := rfl
@[simp] theorem State.takeHandle_clk : (s.takeHandle).clk = { s.clk with nextHandle := s.clk.nextHandle + 1 } := rfl
@[simp] theorem State.takeHandle_fdc : (s.takeHandle).fdc = s.fdc := rfl
@[simp] theorem State.takeHandle_drives : (s.takeHandle).drives = s.drives := rfl
@[simp] theorem State.takeHandle_motorOn : (s.takeHandle).motorOn = s.motorOn := rfl
@[simp] theorem State.takeHandle_motorPulse : (s.takeHandle).motorPulse = s.motorPulse := rfl
@[simp] theorem State.takeHandle_motorIrq : (s.takeHandle).motorIrq = s.motorIrq := rfl
@[simp] theorem State.takeHandle_lastReady : (s.takeHandle).lastReady = s.lastReady := rfl
@[simp] theorem State.takeHandle_fault : (s.takeHandle).fault = s.fault := rfl
@[simp] theorem State.takeHandle_script : (s.takeHandle).script = s.script := rfl
@[simp] theorem State.takeHandle_operator : (s.takeHandle).operator = s.operator := rfl
@[simp] theorem State.takeHandle_inUnit : (s.takeHandle).inUnit = s.inUnit := rfl
@[simp] theorem State.takeHandle_hostData : (s.takeHandle).hostData = s.hostData := rfl
@[simp] theorem State.takeHandle_hostHandle : (s.takeHandle).hostHandle = s.hostHandle := rfl
@[simp] theorem State.takeHandle_savedImage : (s.takeHandle).savedImage = s.savedImage := rfl

/-! ### Setting the fault mark -/

@[simp] theorem State.raiseFatal_cfg (r : FaultReason) : (s.raiseFatal r).cfg = s.cfg := rfl
@[simp] theorem State.raiseFatal_clk (r : FaultReason) : (s.raiseFatal r).clk = s.clk := rfl
@[simp] theorem State.raiseFatal_fdc (r : FaultReason) : (s.raiseFatal r).fdc = s.fdc := rfl
@[simp] theorem State.raiseFatal_drives (r : FaultReason) : (s.raiseFatal r).drives = s.drives := rfl
@[simp] theorem State.raiseFatal_motorOn (r : FaultReason) : (s.raiseFatal r).motorOn = s.motorOn := rfl
@[simp] theorem State.raiseFatal_motorPulse (r : FaultReason) : (s.raiseFatal r).motorPulse = s.motorPulse := rfl
@[simp] theorem State.raiseFatal_motorIrq (r : FaultReason) : (s.raiseFatal r).motorIrq = s.motorIrq := rfl
@[simp] theorem State.raiseFatal_lastReady (r : FaultReason) : (s.raiseFatal r).lastReady = s.lastReady := rfl
@[simp] theorem State.raiseFatal_fault (r : FaultReason) : (s.raiseFatal r).fault = some r := rfl
@[simp] theorem State.raiseFatal_script (r : FaultReason) : (s.raiseFatal r).script = s.script := rfl
@[simp] theorem State.raiseFatal_operator (r : FaultReason) : (s.raiseFatal r).operator = s.operator := rfl
@[simp] theorem State.raiseFatal_inUnit (r : FaultReason) : (s.raiseFatal r).inUnit = s.inUnit := rfl
@[simp] theorem State.raiseFatal_hostData (r : FaultReason) : (s.raiseFatal r).hostData = s.hostData := rfl
@[simp] theorem State.raiseFatal_hostHandle (r : FaultReason) : (s.raiseFatal r).hostHandle = s.hostHandle := rfl
@[simp] theorem State.raiseFatal_savedImage (r : FaultReason) : (s.raiseFatal r).savedImage = s.savedImage := rfl

/-! ### Latching INTRQ -/

@[simp] theorem State.latchIntrq_cfg : (s.latchIntrq).cfg = s.cfg := rfl
@[simp] theorem State.latchIntrq_clk : (s.latchIntrq).clk = s.clk := rfl
@[simp] theorem State.latchIntrq_fdc : (s.latchIntrq).fdc = { s.fdc with intrq := true, waitReq := false } := rfl
@[simp] theorem State.latchIntrq_drives : (s.latchIntrq).drives = s.drives := rfl
@[simp] theorem State.latchIntrq_motorOn : (s.latchIntrq).motorOn = s.motorOn := rfl
@[simp] theorem State.latchIntrq_motorPulse : (s.latchIntrq).motorPulse = s.motorPulse := rfl
@[simp] theorem State.latchIntrq_motorIrq : (s.latchIntrq).motorIrq = s.motorIrq := rfl
@[simp] theorem State.latchIntrq_lastReady : (s.latchIntrq).lastReady = s.lastReady := rfl
@[simp] theorem State.latchIntrq_fault : (s.latchIntrq).fault = s.fault := rfl
@[simp] theorem State.latchIntrq_script : (s.latchIntrq).script = s.script := rfl
@[simp] theorem State.latchIntrq_operator : (s.latchIntrq).operator = s.operator := rfl
@[simp] theorem State.latchIntrq_inUnit : (s.latchIntrq).inUnit = s.inUnit := rfl
@[simp] theorem State.latchIntrq_hostData : (s.latchIntrq).hostData = s.hostData := rfl
@[simp] theorem State.latchIntrq_hostHandle : (s.latchIntrq).hostHandle = s.hostHandle := rfl
@[simp] theorem State.latchIntrq_savedImage : (s.latchIntrq).savedImage = s.savedImage := rfl

/-! ### Unlatching INTRQ -/

@[simp] theorem State.unlatchIntrq_cfg : (s.unlatchIntrq).cfg = s.cfg := rfl
@[simp] theorem State.unlatchIntrq_clk : (s.unlatchIntrq).clk = s.clk := rfl
@[simp] theorem State.unlatchIntrq_fdc : (s.unlatchIntrq).fdc = { s.fdc with intrq := false } := rfl
@[simp] theorem State.unlatchIntrq_drives : (s.unlatchIntrq).drives = s.drives := rfl
@[simp] theorem State.unlatchIntrq_motorOn : (s.unlatchIntrq).motorOn = s.motorOn := rfl
@[simp] theorem State.unlatchIntrq_motorPulse : (s.unlatchIntrq).motorPulse = s.motorPulse := rfl
@[simp] theorem State.unlatchIntrq_motorIrq : (s.unlatchIntrq).motorIrq = s.motorIrq := rfl
@[simp] theorem State.unlatchIntrq_lastReady : (s.unlatchIntrq).lastReady = s.lastReady := rfl
@[simp] theorem State.unlatchIntrq_fault : (s.unlatchIntrq).fault = s.fault := rfl
@[simp] theorem State.unlatchIntrq_script : (s.unlatchIntrq).script = s.script := rfl
@[simp] theorem State.unlatchIntrq_operator : (s.unlatchIntrq).operator = s.operator := rfl
@[simp] theorem State.unlatchIntrq_inUnit : (s.unlatchIntrq).inUnit = s.inUnit := rfl
@[simp] theorem State.unlatchIntrq_hostData : (s.unlatchIntrq).hostData = s.hostData := rfl
@[simp] theorem State.unlatchIntrq_hostHandle : (s.unlatchIntrq).hostHandle = s.hostHandle := rfl
@[simp] theorem State.unlatchIntrq_savedImage : (s.unlatchIntrq).savedImage = s.savedImage := rfl

/-! ### Completing a command -/

@[simp] theorem State.complete_cfg : (s.complete).cfg = s.cfg := rfl
@[simp] theorem State.complete_clk : (s.complete).clk = s.clk := rfl
@[simp] theorem State.complete_fdc :
    (s.complete).fdc = { s.fdc with busy := false, op := .opDone, intrq := true, waitReq := false } :=
  rfl
@[simp] theorem State.complete_drives : (s.complete).drives = s.drives := rfl
@[simp] theorem State.complete_motorOn : (s.complete).motorOn = s.motorOn := rfl
@[simp] theorem State.complete_motorPulse : (s.complete).motorPulse = s.motorPulse := rfl
@[simp] theorem State.complete_motorIrq : (s.complete).motorIrq = s.motorIrq := rfl
@[simp] theorem State.complete_lastReady : (s.complete).lastReady = s.lastReady := rfl
@[simp] theorem State.complete_fault : (s.complete).fault = s.fault := rfl
@[simp] theorem State.complete_script : (s.complete).script = s.script := rfl
@[simp] theorem State.complete_operator : (s.complete).operator = s.operator := rfl
@[simp] theorem State.complete_inUnit : (s.complete).inUnit = s.inUnit := rfl
@[simp] theorem State.complete_hostData : (s.complete).hostData = s.hostData := rfl
@[simp] theorem State.complete_hostHandle : (s.complete).hostHandle = s.hostHandle := rfl
@[simp] theorem State.complete_savedImage : (s.complete).savedImage = s.savedImage := rfl

/-! ### Raising DRQ -/

@[simp] theorem State.raiseDrq_cfg : (s.raiseDrq).cfg = s.cfg := rfl
@[simp] theorem State.raiseDrq_clk : (s.raiseDrq).clk = s.clk := rfl
@[simp] theorem State.raiseDrq_fdc : (s.raiseDrq).fdc = { s.fdc with drq := true, waitReq := false } := rfl
@[simp] theorem State.raiseDrq_drives : (s.raiseDrq).drives = s.drives := rfl
@[simp] theorem State.raiseDrq_motorOn : (s.raiseDrq).motorOn = s.motorOn := rfl
@[simp] theorem State.raiseDrq_motorPulse : (s.raiseDrq).motorPulse = s.motorPulse := rfl
@[simp] theorem State.raiseDrq_motorIrq : (s.raiseDrq).motorIrq = s.motorIrq := rfl
@[simp] theorem State.raiseDrq_lastReady : (s.raiseDrq).lastReady = s.lastReady := rfl
@[simp] theorem State.raiseDrq_fault : (s.raiseDrq).fault = s.fault := rfl
@[simp] theorem State.raiseDrq_script : (s.raiseDrq).script = s.script := rfl
@[simp] theorem State.raiseDrq_operator : (s.raiseDrq).operator = s.operator := rfl
@[simp] theorem State.raiseDrq_inUnit : (s.raiseDrq).inUnit = s.inUnit := rfl
@[simp] theorem State.raiseDrq_hostData : (s.raiseDrq).hostData = s.hostData := rfl
@[simp] theorem State.raiseDrq_hostHandle : (s.raiseDrq).hostHandle = s.hostHandle := rfl
@[simp] theorem State.raiseDrq_savedImage : (s.raiseDrq).savedImage = s.savedImage := rfl

/-! ### Synchronising the cursor -/

@[simp] theorem State.syncCursor_cfg : (s.syncCursor).cfg = s.cfg := rfl
@[simp] theorem State.syncCursor_clk : (s.syncCursor).clk = s.clk := rfl
@[simp] theorem State.syncCursor_fdc :
    (s.syncCursor).fdc = { s.fdc with cursor := angle s.cfg s.clk.ticks * s.trackLen / s.cfg.angleScale } :=
  rfl
@[simp] theorem State.syncCursor_drives : (s.syncCursor).drives = s.drives := rfl
@[simp] theorem State.syncCursor_motorOn : (s.syncCursor).motorOn = s.motorOn := rfl
@[simp] theorem State.syncCursor_motorPulse : (s.syncCursor).motorPulse = s.motorPulse := rfl
@[simp] theorem State.syncCursor_motorIrq : (s.syncCursor).motorIrq = s.motorIrq := rfl
@[simp] theorem State.syncCursor_lastReady : (s.syncCursor).lastReady = s.lastReady := rfl
@[simp] theorem State.syncCursor_fault : (s.syncCursor).fault = s.fault := rfl
@[simp] theorem State.syncCursor_script : (s.syncCursor).script = s.script := rfl
@[simp] theorem State.syncCursor_operator : (s.syncCursor).operator = s.operator := rfl
@[simp] theorem State.syncCursor_inUnit : (s.syncCursor).inUnit = s.inUnit := rfl
@[simp] theorem State.syncCursor_hostData : (s.syncCursor).hostData = s.hostData := rfl
@[simp] theorem State.syncCursor_hostHandle : (s.syncCursor).hostHandle = s.hostHandle := rfl
@[simp] theorem State.syncCursor_savedImage : (s.syncCursor).savedImage = s.savedImage := rfl

/-! ### Inserting a pulse entry -/

@[simp] theorem State.insertPulse_cfg (h : Nat) (cb : Callback) (d : Nat) (p : Bool) (per : Nat) : (s.insertPulse h cb d p per).cfg = s.cfg := rfl
@[simp] theorem State.insertPulse_clk (h : Nat) (cb : Callback) (d : Nat) (p : Bool) (per : Nat) :
    (s.insertPulse h cb d p per).clk = { s.clk with
      pulses := s.clk.pulses ++ [{ handle := h, trigger := s.clk.ticks + d, cb := cb, periodic := p, period := per,
                                   expired := false, seq := s.clk.nextSeq }]
      nextSeq := s.clk.nextSeq + 1 } :=
  rfl
@[simp] theorem State.insertPulse_fdc (h : Nat) (cb : Callback) (d : Nat) (p : Bool) (per : Nat) : (s.insertPulse h cb d p per).fdc = s.fdc := rfl
@[simp] theorem State.insertPulse_drives (h : Nat) (cb : Callback) (d : Nat) (p : Bool) (per : Nat) : (s.insertPulse h cb d p per).drives = s.drives := rfl
@[simp] theorem State.insertPulse_motorOn (h : Nat) (cb : Callback) (d : Nat) (p : Bool) (per : Nat) : (s.insertPulse h cb d p per).motorOn = s.motorOn := rfl
@[simp] theorem State.insertPulse_motorPulse (h : Nat) (cb : Callback) (d : Nat) (p : Bool) (per : Nat) : (s.insertPulse h cb d p per).motorPulse = s.motorPulse := rfl
@[simp] theorem State.insertPulse_motorIrq (h : Nat) (cb : Callback) (d : Nat) (p : Bool) (per : Nat) : (s.insertPulse h cb d p per).motorIrq = s.motorIrq := rfl
@[simp] theorem State.insertPulse_lastReady (h : Nat) (cb : Callback) (d : Nat) (p : Bool) (per : Nat) : (s.insertPulse h cb d p per).lastReady = s.lastReady := rfl
@[simp] theorem State.insertPulse_fault (h : Nat) (cb : Callback) (d : Nat) (p : Bool) (per : Nat) : (s.insertPulse h cb d p per).fault = s.fault := rfl
@[simp] theorem State.insertPulse_script (h : Nat) (cb : Callback) (d : Nat) (p : Bool) (per : Nat) : (s.insertPulse h cb d p per).script = s.script := rfl
@[simp] theorem State.insertPulse_operator (h : Nat) (cb : Callback) (d : Nat) (p : Bool) (per : Nat) : (s.insertPulse h cb d p per).operator = s.operator := rfl
@[simp] theorem State.insertPulse_inUnit (h : Nat) (cb : Callback) (d : Nat) (p : Bool) (per : Nat) : (s.insertPulse h cb d p per).inUnit = s.inUnit := rfl
@[simp] theorem State.insertPulse_hostData (h : Nat) (cb : Callback) (d : Nat) (p : Bool) (per : Nat) : (s.insertPulse h cb d p per).hostData = s.hostData := rfl
@[simp] theorem State.insertPulse_hostHandle (h : Nat) (cb : Callback) (d : Nat) (p : Bool) (per : Nat) : (s.insertPulse h cb d p per).hostHandle = s.hostHandle := rfl
@[simp] theorem State.insertPulse_savedImage (h : Nat) (cb : Callback) (d : Nat) (p : Bool) (per : Nat) : (s.insertPulse h cb d p per).savedImage = s.savedImage := rfl

/-! ### Expiring a pulse entry -/

@[simp] theorem State.expirePulse_cfg (h : Nat) : (s.expirePulse h).cfg = s.cfg := rfl
@[simp] theorem State.expirePulse_clk (h : Nat) :
    (s.expirePulse h).clk = { s.clk with
      pulses := s.clk.pulses.map fun e => if e.handle = h then { e with expired := true } else e } :=
  rfl
@[simp] theorem State.expirePulse_fdc (h : Nat) : (s.expirePulse h).fdc = s.fdc := rfl
@[simp] theorem State.expirePulse_drives (h : Nat) : (s.expirePulse h).drives = s.drives := rfl
@[simp] theorem State.expirePulse_motorOn (h : Nat) : (s.expirePulse h).motorOn = s.motorOn := rfl
@[simp] theorem State.expirePulse_motorPulse (h : Nat) : (s.expirePulse h).motorPulse = s.motorPulse := rfl
@[simp] theorem State.expirePulse_motorIrq (h : Nat) : (s.expirePulse h).motorIrq = s.motorIrq := rfl
@[simp] theorem State.expirePulse_lastReady (h : Nat) : (s.expirePulse h).lastReady = s.lastReady := rfl
@[simp] theorem State.expirePulse_fault (h : Nat) : (s.expirePulse h).fault = s.fault := rfl
@[simp] theorem State.expirePulse_script (h : Nat) : (s.expirePulse h).script = s.script := rfl
@[simp] theorem State.expirePulse_operator (h : Nat) : (s.expirePulse h).operator = s.operator := rfl
@[simp] theorem State.expirePulse_inUnit (h : Nat) : (s.expirePulse h).inUnit = s.inUnit := rfl
@[simp] theorem State.expirePulse_hostData (h : Nat) : (s.expirePulse h).hostData = s.hostData := rfl
@[simp] theorem State.expirePulse_hostHandle (h : Nat) : (s.expirePulse h).hostHandle = s.hostHandle := rfl
@[simp] theorem State.expirePulse_savedImage (h : Nat) : (s.expirePulse h).savedImage = s.savedImage := rfl

/-! ### Replacing a medium -/

@[simp] theorem State.setMedium_cfg (n : Fin 4) (m : Option Medium) : (s.setMedium n m).cfg = s.cfg := rfl
@[simp] theorem State.setMedium_clk (n : Fin 4) (m : Option Medium) : (s.setMedium n m).clk = s.clk := rfl
@[simp] theorem State.setMedium_fdc (n : Fin 4) (m : Option Medium) : (s.setMedium n m).fdc = s.fdc := rfl
@[simp] theorem State.setMedium_drives (n : Fin 4) (m : Option Medium) :
    (s.setMedium n m).drives = s.drives.set n { (s.drive n) with medium := m } :=
  rfl
@[simp] theorem State.setMedium_motorOn (n : Fin 4) (m : Option Medium) : (s.setMedium n m).motorOn = s.motorOn := rfl
@[simp] theorem State.setMedium_motorPulse (n : Fin 4) (m : Option Medium) : (s.setMedium n m).motorPulse = s.motorPulse := rfl
@[simp] theorem State.setMedium_motorIrq (n : Fin 4) (m : Option Medium) : (s.setMedium n m).motorIrq = s.motorIrq := rfl
@[simp] theorem State.setMedium_lastReady (n : Fin 4) (m : Option Medium) : (s.setMedium n m).lastReady = s.lastReady := rfl
@[simp] theorem State.setMedium_fault (n : Fin 4) (m : Option Medium) : (s.setMedium n m).fault = s.fault := rfl
@[simp] theorem State.setMedium_script (n : Fin 4) (m : Option Medium) : (s.setMedium n m).script = s.script := rfl
@[simp] theorem State.setMedium_operator (n : Fin 4) (m : Option Medium) : (s.setMedium n m).operator = s.operator := rfl
@[simp] theorem State.setMedium_inUnit (n : Fin 4) (m : Option Medium) : (s.setMedium n m).inUnit = s.inUnit := rfl
@[simp] theorem State.setMedium_hostData (n : Fin 4) (m : Option Medium) : (s.setMedium n m).hostData = s.hostData := rfl
@[simp] theorem State.setMedium_hostHandle (n : Fin 4) (m : Option Medium) : (s.setMedium n m).hostHandle = s.hostHandle := rfl
@[simp] theorem State.setMedium_savedImage (n : Fin 4) (m : Option Medium) : (s.setMedium n m).savedImage = s.savedImage := rfl

end Sys2Proof.Machine
end

