-- ==== Sys2Proof/Laws/Sequencer.lean ====
section
/-! SUPPORT. How a handler's ending is carried out, said once per ending: a completion, a Fatal, a transition that waits, a
transition that runs on at once. -/

namespace Sys2Proof.Machine

@[simp] theorem finish_complete (fuel : Nat) (s : State) : finish fuel (.complete s) = s.complete := by
  cases fuel <;> rfl

@[simp] theorem finish_fatal (fuel : Nat) (r : FaultReason) (s : State) : finish fuel (.fatal r s) = s.raiseFatal r := by
  cases fuel <;> rfl

/-- A transition with a positive delay registers the command pulse and waits (R147). -/
theorem finish_goto_pos (fuel : Nat) (S : OpStatus) {d : Nat} (s : State) (h : 0 < d) :
    finish fuel (.goto S d s) = (s.withFdc { s.fdc with op := S }).gotoAfter d := by
  have hd : d ≠ 0 := by omega
  cases fuel <;> simp [finish, hd]

/-- A transition with no delay runs the next handler at once (R147). -/
@[simp] theorem finish_goto_zero (fuel : Nat) (S : OpStatus) (s : State) :
    finish (fuel + 1) (.goto S 0 s) = finish fuel (gotoNow (s.withFdc { s.fdc with op := S })) := by
  simp [finish]

/-- What a waiting transition leaves: `waitsAfter` with the next fresh handle. -/
theorem gotoAfter_eq (s : State) (d : Nat) : s.gotoAfter d = { s with
    fdc := { s.fdc with cmdPulse := some s.clk.nextHandle }
    clk := { s.clk with
      pulses := s.clk.pulses ++ [commandPulse s.clk.nextHandle (s.clk.ticks + d) s.clk.nextSeq]
      nextSeq := s.clk.nextSeq + 1
      nextHandle := s.clk.nextHandle + 1 } } := rfl

/-- FdcStep of a busy controller runs its handler with the pulse's handle forgotten (R148). -/
theorem fdcStepEnd_busy {s : State} (h : s.fdc.busy = true) :
    fdcStepEnd s = runHandler (s.withFdc { s.fdc with cmdPulse := none }) := by
  simp [fdcStepEnd, h]

/-- FdcStep of an idle controller is the programming error StaleCommandPulse (R148). -/
theorem fdcStepEnd_idle {s : State} (h : s.fdc.busy = false) :
    fdcStepEnd s = .fatal .staleCommandPulse (s.withFdc { s.fdc with cmdPulse := none }) := by
  simp [fdcStepEnd, h]

/-! ### The guard of every instruction -/

theorem guarded_next {s : State} (h : s.fault = none) (t : State) : guarded s t = .next t := by
  simp [guarded, h]

theorem guarded_fault {s : State} {r : FaultReason} (h : s.fault = some r) (t : State) :
    guarded s t = .fault (.fatal r) := by
  simp [guarded, h]

/-- What `guarded` can do: without the fault mark it goes on, with it nothing runs. -/
theorem guarded_inv {s t u : State} (h : guarded s t = .next u) : s.fault = none ∧ u = t := by
  unfold guarded at h
  split at h
  · cases h
  · cases h
    exact ⟨by assumption, rfl⟩

theorem portAccess_next {s : State} (h : s.fault = none) (act : State → State) :
    portAccess s act = .next (act { s with inUnit := true }) :=
  guarded_next h _

/-- What a port access can do. -/
theorem portAccess_inv {s u : State} {act : State → State} (h : portAccess s act = .next u) :
    s.fault = none ∧ u = act { s with inUnit := true } :=
  guarded_inv h

end Sys2Proof.Machine
end

