-- ==== Sys2Proof/Laws/Ops.lean ====
section
/-! SUPPORT. For each shared operation over the state, one lemma that says once everything it does. -/

namespace Sys2Proof.Machine

/-! ### Legal parameters -/

/-- Under legal parameters every delay is positive and no divisor is zero. -/
theorem legalConfig_pos {c : Config} (h : legalConfig c = true) :
    0 < c.ticksPerTstate ∧ 0 < c.waitTstates ∧ 0 < tpr c ∧ 0 < c.angleScale ∧ (∀ dd, 0 < byteTicks c dd) ∧
      (∀ b, 0 < stepTime c b) ∧ 0 < usToTicks c c.settleUs ∧ 0 < usToTicks c c.motorTimeoutUs ∧ 0 < c.wtWindow ∧
      0 < c.restoreLimit ∧ 0 < c.numDrives ∧ c.numDrives ≤ 4 := by
  simp only [legalConfig, Bool.and_eq_true, decide_eq_true_eq] at h
  obtain ⟨⟨⟨⟨⟨⟨⟨⟨⟨⟨⟨⟨⟨⟨⟨⟨⟨h1, h2⟩, h3⟩, h4⟩, h5⟩, h6⟩, h7⟩, h8⟩, h9⟩, h10⟩, h11⟩, h12⟩, h13⟩, h14⟩, h15⟩, h16⟩, _⟩, _⟩ := h
  refine ⟨h1, h2, h3, h4, fun dd => by cases dd <;> assumption, fun b => ?_, h11, h12, h13, h14, h15, h16⟩
  have key : ∀ i : Fin 4, 0 < usToTicks c c.stepUs[i] := by
    intro i
    fin_cases i <;> assumption
  exact key (rateField b).toFin

/-! ### Flags and lines -/

/-- Setting an error flag under the one-error rule (R47). -/
theorem State.setError_eq (s : State) (e : ErrorFlag) : s.setError e = s.withFdc (reports s.fdc e) := by
  unfold State.setError reports Fdc.anyError Fdc.errorCount
  rcases s.fdc.seekErr <;> rcases s.fdc.crcErr <;> rcases s.fdc.lostData <;> rcases s.fdc.wpErr <;> simp <;> rfl

/-- Noting that the Host did not serve the data register in time (R47). -/
theorem State.noteLost_eq (s : State) :
    s.noteLost = s.withFdc (if s.fdc.drq then reports s.fdc .lostData else s.fdc) := by
  unfold State.noteLost
  split
  · exact State.setError_eq s .lostData
  · rfl

/-- Delivering a byte to the Host (R244). -/
theorem State.deliver_eq (s : State) (v : Byte) : s.deliver v = s.withFdc (delivered s.fdc v) := by
  have h : s.deliver v = s.noteLost.withFdc { s.noteLost.fdc with dr := v, drq := true, waitReq := false } := rfl
  rw [h, State.noteLost_eq]
  rfl

/-- The ready edge (R306). -/
theorem State.readyEdge_eq (s : State) :
    s.readyEdge =
      (let edge := (s.fdc.armI1 && s.lastReady && !s.ready) || (s.fdc.armI0 && !s.lastReady && s.ready)
      { s with
        lastReady := s.ready
        fdc := { s.fdc with intrq := s.fdc.intrq || edge, waitReq := s.fdc.waitReq && !edge } }) := by
  unfold State.readyEdge
  dsimp only
  cases ((s.fdc.armI1 && s.lastReady && !s.ready) || (s.fdc.armI0 && !s.lastReady && s.ready))
  · simp
  · simp [State.latchIntrq, State.withFdc]

/-! ### Pulses -/

/-- Expiring an optional handle (R144). -/
theorem State.expireOpt_eq (s : State) (o : Option Nat) :
    s.expireOpt o = { s with clk := { s.clk with pulses := expiredAt s.clk.pulses o none } } := by
  unfold State.expireOpt expiredAt
  cases o with
  | none => simp
  | some h =>
    simp only [State.expirePulse, Option.some.injEq, reduceCtorEq, or_false]
    congr 2
    apply List.map_congr_left
    intro e _
    simp only [eq_comm]

/-- Accepting a command write (R171, R305). -/
theorem State.acceptCommand_eq (s : State) (b : Byte) :
    s.acceptCommand b = { s with
      clk := { s.clk with pulses := expiredAt s.clk.pulses s.fdc.indexPulse none }
      fdc := { s.fdc with
        cr := b, cmd := kindOf b, intrq := false, indexPulse := none, armI0 := false, armI1 := false } } := by
  show State.withFdc _ _ = _
  unfold State.cancelForceArms
  rw [State.expireOpt_eq]
  rfl

/-- Arming I2 (R300): one periodic entry under the next fresh handle. -/
theorem State.armIndex_eq {s : State} (hl : legalConfig s.cfg = true) :
    s.armIndex = { s with
      fdc := { s.fdc with indexPulse := some s.clk.nextHandle }
      clk := { s.clk with
        pulses := s.clk.pulses ++
          [{ handle := s.clk.nextHandle
             trigger := s.clk.ticks +
               (if ticksToIndex s.cfg s.clk.ticks = 0 then tpr s.cfg else ticksToIndex s.cfg s.clk.ticks)
             cb := .indexIrq, periodic := true, period := tpr s.cfg, expired := false, seq := s.clk.nextSeq }]
        nextSeq := s.clk.nextSeq + 1
        nextHandle := s.clk.nextHandle + 1 } } := by
  have ht := (legalConfig_pos hl).2.2.1
  unfold State.armIndex
  dsimp only
  unfold State.registerPulse
  rw [if_neg (by omega), if_neg (by split_ifs with h <;> omega)]
  rfl

/-- The motor retrigger of a select (R179, R422). -/
theorem State.retriggerMotor_eq {s : State} (hl : legalConfig s.cfg = true) :
    s.retriggerMotor = { s with
      motorOn := true, motorPulse := some s.clk.nextHandle, motorIrq := false
      clk := { s.clk with
        pulses := expiredAt s.clk.pulses s.motorPulse none ++
          [{ handle := s.clk.nextHandle, trigger := s.clk.ticks + usToTicks s.cfg s.cfg.motorTimeoutUs, cb := .motorOff,
             periodic := false, period := 0, expired := false, seq := s.clk.nextSeq }]
        nextSeq := s.clk.nextSeq + 1
        nextHandle := s.clk.nextHandle + 1 } } := by
  have ht := (legalConfig_pos hl).2.2.2.2.2.2.2.1
  unfold State.retriggerMotor
  dsimp only
  rw [State.expireOpt_eq]
  unfold State.registerPulse
  rw [if_neg (by simp), if_neg (by omega)]
  rfl

/-! ### Selection -/

/-- The cursor after a select (R452). -/
theorem State.redirected_eq (s : State) (old : Fdc) :
    s.redirected old = s.withFdc { s.fdc with
      cursor := if s.fdc.busy = true ∧ (s.fdc.selDrive ≠ old.selDrive ∨ s.fdc.side ≠ old.side)
        then s.fdc.cursor % s.trackLen else s.fdc.cursor } := by
  unfold State.redirected
  simp only [Bool.and_eq_true, Bool.or_eq_true, bne_iff_ne, ne_eq]
  split_ifs <;> rfl

/-- Everything a select does (R179, R306, R422, R452). -/
theorem State.select_selects {s : State} (hl : legalConfig s.cfg = true) (drive : Option (Fin 4))
    (side dd wait driveBit : Bool) :
    selects s drive side dd wait driveBit (({ s with inUnit := true } : State).select
      { s.fdc with selDrive := drive, side := side, dd := dd, waitReq := wait } driveBit) := by
  unfold State.select
  dsimp only
  rw [State.redirected_eq]
  have edgeIff : ∀ a0 a1 l r : Bool, ((a1 && l && !r) || (a0 && !l && r)) = true ↔
      (a1 = true ∧ l = true ∧ r = false) ∨ (a0 = true ∧ l = false ∧ r = true) := by decide
  cases driveBit with
  | false =>
    rw [if_neg Bool.false_ne_true, State.readyEdge_eq]
    exact ⟨_, edgeIff _ _ _ _, rfl, rfl⟩
  | true =>
    rw [if_pos rfl, State.retriggerMotor_eq (by exact hl), State.readyEdge_eq]
    exact ⟨_, edgeIff _ _ _ _, rfl, s.clk.nextHandle, s.clk.nextHandle + 1, le_refl _, Nat.lt_succ_self _, rfl⟩

/-- The entry that fires first precedes every other. -/
theorem firstPulse_spec : ∀ (l : List Pulse) (e : Pulse), firstPulse l = some e →
    e ∈ l ∧ ∀ e' ∈ l, e' = e ∨ e'.before e = false := by
  intro l
  induction l with
  | nil =>
    intro e h
    cases h
  | cons a r ih =>
    intro e h
    unfold firstPulse at h
    cases hr : firstPulse r with
    | none =>
      rw [hr] at h
      cases h
      cases r with
      | nil => simp
      | cons b q =>
        simp [firstPulse] at hr
        revert hr
        split <;> (try split) <;> simp
    | some x =>
      rw [hr] at h
      dsimp only at h
      obtain ⟨h1, h2⟩ := ih x hr
      split_ifs at h with hc <;> cases h
      · refine ⟨List.mem_cons_of_mem _ h1, fun e' he => ?_⟩
        rcases List.mem_cons.1 he with rfl | he
        · right
          unfold Pulse.before at *
          simp at *
          omega
        · exact h2 _ he
      · refine ⟨List.mem_cons_self, fun e' he => ?_⟩
        rcases List.mem_cons.1 he with rfl | he
        · exact .inl rfl
        · rcases h2 _ he with rfl | h3
          · right
            simpa using hc
          · right
            unfold Pulse.before at *
            simp at *
            omega

/-- Nothing is due exactly when every live entry lies in the future (R145). -/
theorem Clock.nextDue_eq_none {c : Clock} :
    c.nextDue = none ↔ ∀ e ∈ c.pulses, e.expired = false → c.ticks < e.trigger := by
  have hn : ∀ l, firstPulse l = none ↔ l = [] := by
    intro l
    cases l with
    | nil => simp [firstPulse]
    | cons a r =>
      simp [firstPulse]
      split <;> (try split) <;> simp
  unfold Clock.nextDue
  rw [hn, List.filter_eq_nil_iff]
  constructor
  · intro h e he hx
    have := h e he
    simp [hx] at this
    exact this
  · intro h e he
    simp
    exact h e he

/-- The entry Dispatch fires next: live, due, and before every other such entry (R145, R150). -/
theorem Clock.nextDue_eq_some {c : Clock} {e : Pulse} (h : c.nextDue = some e) :
    e ∈ c.pulses ∧ e.expired = false ∧ e.trigger ≤ c.ticks ∧
      ∀ e' ∈ c.pulses, e'.expired = false → e'.trigger ≤ c.ticks → e' = e ∨ e'.before e = false := by
  obtain ⟨h1, h2⟩ := firstPulse_spec _ _ h
  have h3 := List.mem_filter.1 h1
  simp at h3
  exact ⟨h3.1, h3.2.1, h3.2.2, fun e' a b d => h2 e' (List.mem_filter.2 ⟨a, by simp [b, d]⟩)⟩

/-! ### Drives and tracks -/

theorem State.drive_setDrive (s : State) (n k : Fin 4) (d : Drive) :
    (s.setDrive n d).drive k = if n = k then d else s.drive k := by
  unfold State.setDrive State.drive
  by_cases h : n = k
  · subst h
    simp
  · have : n.val ≠ k.val := fun e => h (Fin.ext e)
    simp [h, this]

/-- One step of the head (R200). -/
theorem State.stepHead_eq (s : State) (dir : StepDir) : s.stepHead dir = { s with drives := headMoved s dir } := by
  unfold State.stepHead headMoved
  cases s.fdc.selDrive <;> rfl

/-- Where the current track comes from (R81). -/
theorem State.curTrack_eq_some {s : State} {T : Track} (h : s.curTrack = some T) :
    ∃ n m, s.fdc.selDrive = some n ∧ (s.drive n).medium = some m ∧
      m.track (s.drive n).physTrack s.fdc.side = some T := by
  unfold State.curTrack at h
  split at h
  · split at h
    · exact ⟨_, _, by assumption, by assumption, h⟩
    · cases h
  · cases h

/-- Replacing the current track touches only the drives. -/
theorem State.setCurTrack_shape (s : State) (T : Track) (changed : Bool) :
    s.setCurTrack T changed = { s with drives := (s.setCurTrack T changed).drives } := by
  unfold State.setCurTrack
  split
  · split <;> rfl
  · rfl

theorem State.memWrite_shape (s : State) (p : Nat) (v : Byte) :
    s.memWrite p v = { s with drives := (s.memWrite p v).drives } := by
  unfold State.memWrite
  split
  · exact State.setCurTrack_shape _ _ _
  · rfl

theorem State.memWriteRun_shape (s : State) (p : Nat) (v : Byte) (k : Nat) :
    s.memWriteRun p v k = { s with drives := (s.memWriteRun p v k).drives } := by
  induction k with
  | zero => rfl
  | succ k ih =>
    have h := State.memWrite_shape (s.memWriteRun p v k) (p + k) v
    show (s.memWriteRun p v k).memWrite _ _ = { s with drives := ((s.memWriteRun p v k).memWrite _ _).drives }
    generalize (s.memWriteRun p v k).memWrite (p + k) v = w at *
    generalize s.memWriteRun p v k = u at *
    rw [h, ih]

/-- Writing a logical byte touches only the drives and the cursor (R90). -/
theorem State.writeLogical_shape (s : State) (v : Byte) :
    s.writeLogical v = { s with
      drives := (s.writeLogical v).drives
      fdc := { s.fdc with cursor := (s.fdc.cursor + s.stride) % s.trackLen } } := by
  have h := State.memWriteRun_shape s s.fdc.cursor v s.stride
  unfold State.writeLogical
  generalize s.memWriteRun s.fdc.cursor v s.stride = u at *
  rw [h]
  rfl

/-- `wtPut` touches only the drives, the cursor and the recent bytes (R288). -/
theorem State.wtPut_shape (s : State) (v : Byte) :
    s.wtPut v = { s with
      drives := (s.wtPut v).drives
      fdc := { s.fdc with
        cursor := s.fdc.cursor + s.stride, recent := #v[s.fdc.recent[1], s.fdc.recent[2], v] } } := by
  unfold State.wtPut
  cases h : s.curTrack with
  | none => rfl
  | some T =>
    dsimp only
    have h := State.setCurTrack_shape s (putRun s.capacity s.fdc.cursor v T s.stride)
      (s.curChanged || decide (s.fdc.cursor < s.capacity))
    generalize State.setCurTrack _ _ _ = u at *
    rw [h]
    rfl

theorem State.wtCommit_shape (s : State) : s.wtCommit = { s with drives := s.wtCommit.drives } := by
  unfold State.wtCommit
  split
  · exact State.setCurTrack_shape _ _ _
  · rfl

theorem State.wtAbort_shape (s : State) : s.wtAbort = { s with drives := s.wtAbort.drives } := by
  unfold State.wtAbort
  split
  · exact State.setCurTrack_shape _ _ _
  · rfl

/-- Two (track, side) pairs of one medium share no place. -/
theorem Medium.trackIndex_inj {m : Medium} {t t' : Nat} {side side' : Bool} {i : Nat}
    (h : m.trackIndex t side = some i) (h' : m.trackIndex t' side' = some i) : t = t' ∧ side = side' := by
  unfold Medium.trackIndex at h h'
  split_ifs at h with h1
  split_ifs at h' with h2
  simp only [Option.some.injEq] at h h'
  have hb : ∀ b : Bool, b.toNat = 0 ∧ b = false ∨ b.toNat = 1 ∧ b = true := by decide
  have e : t = t' ∧ side.toNat = side'.toNat := by
    have hs : 0 < m.sides := by omega
    have e1 : (t * m.sides + side.toNat) / m.sides = t := by
      rw [Nat.mul_comm, Nat.mul_add_div hs, Nat.div_eq_of_lt h1.2, Nat.add_zero]
    have e2 : (t' * m.sides + side'.toNat) / m.sides = t' := by
      rw [Nat.mul_comm, Nat.mul_add_div hs, Nat.div_eq_of_lt h2.2, Nat.add_zero]
    have ht : t = t' := by rw [← e1, ← e2, h, h']
    subst ht
    exact ⟨rfl, by omega⟩
  refine ⟨e.1, ?_⟩
  rcases hb side with h | h <;> rcases hb side' with h3 | h3 <;> simp_all

/-- The tracks of a medium after one is replaced: that one is new, the others stay. -/
theorem Medium.track_setTrack {m : Medium} {t : Nat} {side : Bool} {T₀ : Track} (T : Track)
    (h : m.track t side = some T₀) (t' : Nat) (side' : Bool) :
    (m.setTrack t side T).track t' side' = if t' = t ∧ side' = side then some T else m.track t' side' := by
  unfold Medium.track Medium.setTrack at *
  cases hi : m.trackIndex t side with
  | none =>
    rw [hi] at h
    cases h
  | some i =>
    rw [hi] at h
    have hti : ∀ a b, Medium.trackIndex { m with tracks := m.tracks.set i T } a b = m.trackIndex a b := fun _ _ => rfl
    dsimp only at h ⊢
    rw [hti]
    have hlt : i < m.tracks.length := by
      by_contra hc
      rw [List.getElem?_eq_none (by omega)] at h
      cases h
    by_cases e : t' = t ∧ side' = side
    · rw [if_pos e, e.1, e.2, hi]
      dsimp only
      rw [List.getElem?_set_self hlt]
    · rw [if_neg e]
      cases hj : m.trackIndex t' side' with
      | none => rfl
      | some j =>
        dsimp only
        have : i ≠ j := by
          rintro rfl
          have := Medium.trackIndex_inj hi hj
          exact e ⟨this.1.symm, this.2.symm⟩
        rw [List.getElem?_set_ne this]

/-- Everything replacing the current track does: the current track and its flag are new, the head and the other drives
stay. -/
theorem State.setCurTrack_spec {s : State} {T₀ : Track} (T : Track) (c : Bool) (h : s.curTrack = some T₀) :
    ∃ n m, s.fdc.selDrive = some n ∧ (s.drive n).medium = some m ∧
      m.track (s.drive n).physTrack s.fdc.side = some T₀ ∧
      (s.setCurTrack T c).curTrack = some T ∧ (s.setCurTrack T c).curChanged = c ∧
      ((s.setCurTrack T c).drive n).medium =
        some { m.setTrack (s.drive n).physTrack s.fdc.side T with changed := c } ∧
      ((s.setCurTrack T c).drive n).physTrack = (s.drive n).physTrack ∧
      ∀ k, k ≠ n → (s.setCurTrack T c).drive k = s.drive k := by
  obtain ⟨n, m, h1, h2, h3⟩ := State.curTrack_eq_some h
  have e : s.setCurTrack T c = s.setDrive n { (s.drive n) with
      medium := some { m.setTrack (s.drive n).physTrack s.fdc.side T with changed := c } } := by
    unfold State.setCurTrack
    rw [h1]
    dsimp only
    rw [h2]
  rw [e]
  have hd : (s.setDrive n { (s.drive n) with
      medium := some { m.setTrack (s.drive n).physTrack s.fdc.side T with changed := c } }).drive n =
      { (s.drive n) with medium := some { m.setTrack (s.drive n).physTrack s.fdc.side T with changed := c } } := by
    rw [State.drive_setDrive, if_pos rfl]
  refine ⟨n, m, h1, h2, h3, ?_, ?_, by rw [hd], by rw [hd], fun k hk => ?_⟩
  · unfold State.curTrack
    show (match s.fdc.selDrive with | some n => _ | none => none) = _
    rw [h1]
    dsimp only
    rw [hd]
    dsimp only
    show Medium.track (m.setTrack _ _ T) _ _ = _
    rw [Medium.track_setTrack T h3, if_pos ⟨rfl, rfl⟩]
  · unfold State.curChanged State.curMedium
    have hs : (s.setDrive n { (s.drive n) with
        medium := some { m.setTrack (s.drive n).physTrack s.fdc.side T with changed := c } }).fdc.selDrive = some n := h1
    rw [hs]
    dsimp only
    rw [hd]
  · rw [State.drive_setDrive, if_neg (fun e => hk e.symm)]

/-- Replacing the current track replaces that track and the medium's changed flag, and nothing else. -/
theorem State.setCurTrack_withTrack {s : State} {n : Fin 4} {m : Medium} {T₀ : Track} (T : Track) (c : Bool)
    (hn : s.fdc.selDrive = some n) (hm : (s.drive n).medium = some m) (h : s.curTrack = some T₀) :
    s.setCurTrack T c = s.withTrack n { m with changed := c } (s.drive n).physTrack s.fdc.side T := by
  have ht : m.track (s.drive n).physTrack s.fdc.side = some T₀ := by
    unfold State.curTrack at h
    rw [hn] at h
    dsimp only at h
    rw [hm] at h
    exact h
  have hi : m.trackIndex (s.drive n).physTrack s.fdc.side = some ((s.drive n).physTrack * m.sides + s.fdc.side.toNat) := by
    unfold Medium.track at ht
    unfold Medium.trackIndex at ht ⊢
    split_ifs at ht ⊢
    rfl
  have hs : m.setTrack (s.drive n).physTrack s.fdc.side T =
      { m with tracks := m.tracks.set ((s.drive n).physTrack * m.sides + s.fdc.side.toNat) T } := by
    unfold Medium.setTrack
    rw [hi]
  unfold State.setCurTrack
  rw [hn]
  dsimp only
  rw [hm]
  dsimp only
  rw [hs]
  rfl

/-- Replacing the current track under its medium's own flag replaces that track and nothing else. -/
theorem State.setCurTrack_eq_withTrack {s : State} {n : Fin 4} {m : Medium} {T₀ : Track} (T : Track)
    (hn : s.fdc.selDrive = some n) (hm : (s.drive n).medium = some m) (h : s.curTrack = some T₀) :
    s.setCurTrack T s.curChanged = s.withTrack n m (s.drive n).physTrack s.fdc.side T := by
  have hc : s.curChanged = m.changed := by
    unfold State.curChanged State.curMedium
    rw [hn]
    dsimp only
    rw [hm]
  rw [State.setCurTrack_withTrack T _ hn hm h, hc]

/-- The medium of a drive one of whose tracks was replaced. -/
theorem State.withTrack_medium (s : State) (n : Fin 4) (m : Medium) (t : Nat) (side : Bool) (T : Track) :
    ((s.withTrack n m t side T).drive n).medium =
      some { m with tracks := m.tracks.set (t * m.sides + side.toNat) T } := by
  simp [State.withTrack, State.drive]

/-- Of two replacements of one track the second stays. -/
theorem State.withTrack_withTrack (s : State) (n : Fin 4) (m : Medium) (t : Nat) (side : Bool) (T T' : Track) :
    (s.withTrack n m t side T).withTrack n { m with tracks := m.tracks.set (t * m.sides + side.toNat) T } t side T' =
      s.withTrack n m t side T' := by
  simp [State.withTrack, State.drive, Vector.set_set]

/-- Every byte of every medium after the current track is replaced. -/
theorem State.trackByte_setCurTrack {s : State} {T₀ : Track} (T : Track) (c : Bool) (h : s.curTrack = some T₀)
    (n' : Fin 4) (t' : Nat) (side' : Bool) (pos : Nat) :
    (s.setCurTrack T c).trackByte n' t' side' pos =
      if s.fdc.selDrive = some n' ∧ t' = (s.drive n').physTrack ∧ side' = s.fdc.side then
        (if pos < T.len then some (T.data.read pos) else none)
      else s.trackByte n' t' side' pos := by
  obtain ⟨n, m, h1, h2, h3, _, _, h6, _, h8⟩ := State.setCurTrack_spec T c h
  have hc : ∀ (m : Medium) (b : Bool) t s', Medium.track { m with changed := b } t s' = m.track t s' :=
    fun _ _ _ _ => rfl
  by_cases hn : n' = n
  · subst hn
    unfold State.trackByte
    rw [h6, h2]
    dsimp only
    rw [hc, Medium.track_setTrack T h3]
    by_cases e : t' = (s.drive n').physTrack ∧ side' = s.fdc.side
    · rw [if_pos e, if_pos ⟨h1, e⟩]
    · rw [if_neg e, if_neg (fun x => e x.2)]
  · rw [if_neg (by rintro ⟨a, _⟩; rw [h1] at a; cases a; exact hn rfl)]
    unfold State.trackByte
    rw [h8 _ hn]

/-! ### Buffers -/

/-- One raw byte of `wtPut` keeps a buffer's form (R288, R69). -/
theorem putRaw_bufferOk {cap p : Nat} {v : Byte} {T : Track} (h : T.bufferOk cap = true) :
    (putRaw cap p v T).bufferOk cap = true ∧ (putRaw cap p v T).index = T.index := by
  unfold putRaw
  split_ifs with h1 h2
  · exact ⟨Track.bufferOk_write h h2 v, rfl⟩
  · refine ⟨?_, rfl⟩
    simp only [Track.bufferOk, Bool.and_eq_true, decide_eq_true_eq] at h ⊢
    refine ⟨⟨⟨by omega, by omega⟩, Memory.write_wf _ v h.1.2⟩, Memory.write_all (by simp) ?_⟩
    refine List.all_eq_true.2 fun c hc => ?_
    have := List.all_eq_true.1 h.2 c hc
    simp at this ⊢
    omega
  · exact ⟨h, rfl⟩

end Sys2Proof.Machine
end

