-- ==== Sys2Proof/Laws/PerInstr.lean ====
section
/-! SUPPORT. One lemma per instruction: the first byte of its encoding is one that its row of the opcode table matches. -/

namespace Sys2Proof.Laws

/-- The (mask, match) of an instruction's row of the opcode table, for the byte the table gives it: the command byte, or the
I/O address of the port; the rows of the primitives have none. -/
def tableRow : Instr → Option (Byte × Byte)
  | .restore _ _ _ => some (0xF0, 0x00)
  | .seek _ _ _ => some (0xF0, 0x10)
  | .step _ _ _ _ => some (0xE0, 0x20)
  | .stepIn _ _ _ _ => some (0xE0, 0x40)
  | .stepOut _ _ _ _ => some (0xE0, 0x60)
  | .readSector _ _ _ _ _ => some (0xE0, 0x80)
  | .writeSector _ _ _ _ _ => some (0xE0, 0xA0)
  | .readAddress _ _ _ _ => some (0xF0, 0xC0)
  | .forceInterrupt _ _ _ _ => some (0xF0, 0xD0)
  | .readTrack _ _ _ _ => some (0xF0, 0xE0)
  | .writeTrack _ _ _ _ => some (0xF0, 0xF0)
  | .rdStatus => some (0x07, 0x00)
  | .wrCommand _ => some (0x07, 0x00)
  | .rdTrack => some (0x07, 0x01)
  | .wrTrack _ => some (0x07, 0x01)
  | .rdSector => some (0x07, 0x02)
  | .wrSector _ => some (0x07, 0x02)
  | .rdData => some (0x07, 0x03)
  | .wrData _ => some (0x07, 0x03)
  | .rdSelect => some (0x07, 0x04)
  | .wrSelect _ => some (0x07, 0x04)
  | .advance _ | .registerPulse _ _ _ _ | .expire _ | .dispatch | .goto _ _ => none

/-- The table's row matches the first byte of the encoding, which is no longer than the longest instruction. -/
def TableByte.Statement (i : Instr) : Prop :=
  (∀ row ∈ tableRow i, ∀ b ∈ (encode 0xF0 i).head?, b &&& row.1 = row.2) ∧ (encode 0xF0 i).length ≤ longestInstr

theorem TableByte.restore_byte : ∀ h v r, byteRestore h v r &&& 240#8 = 0#8 := by decide

theorem TableByte.restore : ∀ h v r, TableByte.Statement (.restore h v r) := by
  intros
  constructor <;> simp [tableRow, encode, longestInstr, restore_byte]

theorem TableByte.seek_byte : ∀ h v r, byteSeek h v r &&& 240#8 = 16#8 := by decide

theorem TableByte.seek : ∀ h v r, TableByte.Statement (.seek h v r) := by
  intros
  constructor <;> simp [tableRow, encode, longestInstr, seek_byte]

theorem TableByte.step_byte : ∀ u h v r, byteStep u h v r &&& 224#8 = 32#8 := by decide

theorem TableByte.step : ∀ u h v r, TableByte.Statement (.step u h v r) := by
  intros
  constructor <;> simp [tableRow, encode, longestInstr, step_byte]

theorem TableByte.stepIn_byte : ∀ u h v r, byteStepIn u h v r &&& 224#8 = 64#8 := by decide

theorem TableByte.stepIn : ∀ u h v r, TableByte.Statement (.stepIn u h v r) := by
  intros
  constructor <;> simp [tableRow, encode, longestInstr, stepIn_byte]

theorem TableByte.stepOut_byte : ∀ u h v r, byteStepOut u h v r &&& 224#8 = 96#8 := by decide

theorem TableByte.stepOut : ∀ u h v r, TableByte.Statement (.stepOut u h v r) := by
  intros
  constructor <;> simp [tableRow, encode, longestInstr, stepOut_byte]

theorem TableByte.readSector_byte : ∀ m sd e c x, byteReadSector m sd e c x &&& 224#8 = 128#8 := by decide

theorem TableByte.readSector : ∀ m sd e c x, TableByte.Statement (.readSector m sd e c x) := by
  intros
  constructor <;> simp [tableRow, encode, longestInstr, readSector_byte]

theorem TableByte.writeSector_byte : ∀ m sd e c a0, byteWriteSector m sd e c a0 &&& 224#8 = 160#8 := by decide

theorem TableByte.writeSector : ∀ m sd e c a0, TableByte.Statement (.writeSector m sd e c a0) := by
  intros
  constructor <;> simp [tableRow, encode, longestInstr, writeSector_byte]

theorem TableByte.readAddress_byte : ∀ x3 e x1 x0, byteReadAddress x3 e x1 x0 &&& 240#8 = 192#8 := by decide

theorem TableByte.readAddress : ∀ x3 e x1 x0, TableByte.Statement (.readAddress x3 e x1 x0) := by
  intros
  constructor <;> simp [tableRow, encode, longestInstr, readAddress_byte]

theorem TableByte.forceInterrupt_byte : ∀ i3 i2 i1 i0, byteForceInterrupt i3 i2 i1 i0 &&& 240#8 = 208#8 := by decide

theorem TableByte.forceInterrupt : ∀ i3 i2 i1 i0, TableByte.Statement (.forceInterrupt i3 i2 i1 i0) := by
  intros
  constructor <;> simp [tableRow, encode, longestInstr, forceInterrupt_byte]

theorem TableByte.readTrack_byte : ∀ x3 e x1 x0, byteReadTrack x3 e x1 x0 &&& 240#8 = 224#8 := by decide

theorem TableByte.readTrack : ∀ x3 e x1 x0, TableByte.Statement (.readTrack x3 e x1 x0) := by
  intros
  constructor <;> simp [tableRow, encode, longestInstr, readTrack_byte]

theorem TableByte.writeTrack_byte : ∀ x3 e x1 x0, byteWriteTrack x3 e x1 x0 &&& 240#8 = 240#8 := by decide

theorem TableByte.writeTrack : ∀ x3 e x1 x0, TableByte.Statement (.writeTrack x3 e x1 x0) := by
  intros
  constructor <;> simp [tableRow, encode, longestInstr, writeTrack_byte]

theorem TableByte.rdStatus : TableByte.Statement .rdStatus := by
  constructor <;> simp [tableRow, encode, longestInstr]

theorem TableByte.wrCommand : ∀ v, TableByte.Statement (.wrCommand v) := by
  intro v
  constructor <;> simp [tableRow, encode, longestInstr]

theorem TableByte.rdTrack : TableByte.Statement .rdTrack := by
  constructor <;> simp [tableRow, encode, longestInstr]

theorem TableByte.wrTrack : ∀ v, TableByte.Statement (.wrTrack v) := by
  intro v
  constructor <;> simp [tableRow, encode, longestInstr]

theorem TableByte.rdSector : TableByte.Statement .rdSector := by
  constructor <;> simp [tableRow, encode, longestInstr]

theorem TableByte.wrSector : ∀ v, TableByte.Statement (.wrSector v) := by
  intro v
  constructor <;> simp [tableRow, encode, longestInstr]

theorem TableByte.rdData : TableByte.Statement .rdData := by
  constructor <;> simp [tableRow, encode, longestInstr]

theorem TableByte.wrData : ∀ v, TableByte.Statement (.wrData v) := by
  intro v
  constructor <;> simp [tableRow, encode, longestInstr]

theorem TableByte.rdSelect : TableByte.Statement .rdSelect := by
  constructor <;> simp [tableRow, encode, longestInstr]

theorem TableByte.wrSelect : ∀ v, TableByte.Statement (.wrSelect v) := by
  intro v
  constructor <;> simp [tableRow, encode, longestInstr]

theorem TableByte.advance : ∀ n, TableByte.Statement (.advance n) := by
  intros
  constructor <;> simp [tableRow, encode, longestInstr, leBytes]

theorem TableByte.registerPulse : ∀ cb d p q, TableByte.Statement (.registerPulse cb d p q) := by
  intros
  constructor <;> simp [tableRow, encode, longestInstr, leBytes]

theorem TableByte.expire : ∀ h, TableByte.Statement (.expire h) := by
  intros
  constructor <;> simp [tableRow, encode, longestInstr, leBytes]

theorem TableByte.dispatch : TableByte.Statement .dispatch := by
  constructor <;> simp [tableRow, encode, longestInstr]

theorem TableByte.goto : ∀ target d, TableByte.Statement (.goto target d) := by
  intros
  constructor <;> simp [tableRow, encode, longestInstr, leBytes]

end Sys2Proof.Laws
end

