-- ==== Sys2Proof/Tests/Slice0.lean ====
section
/-! SUPPORT. Our own tests: the smoke tests of the operand checks, one decoding for every constructor, one small step or two
for every instruction (expected values from 95_test_vectors.md or worked by hand from the rule named), and for every
statement with hypotheses concrete states and operands that meet them. -/

namespace Sys2Proof.Tests

open Sys2Proof.Machine

-- One theorem after the other: the kernel evaluations below would each take a thread of their own.
set_option Elab.async false

/-! ### The operand checks (R141, R143, R147, R11) -/

theorem test_advance_of_zero_is_ill_formed : (Instr.advance 0).wf = false := by decide
theorem test_advance_past_u64_is_ill_formed : (Instr.advance (2 ^ 64)).wf = false := by decide
theorem test_register_delay_past_u64_is_ill_formed :
    (Instr.registerPulse .external (2 ^ 64) true 1).wf = false := by decide
theorem test_register_period_past_u64_is_ill_formed :
    (Instr.registerPulse .external 1 true (2 ^ 64)).wf = false := by decide
theorem test_expire_past_u64_is_ill_formed : (Instr.expire (2 ^ 64)).wf = false := by decide
theorem test_goto_past_u64_is_ill_formed : (Instr.goto .nmi (2 ^ 64)).wf = false := by decide
theorem test_zero_advance_is_refused :
    decode 0xF0 [0, 3, 0, 0, 0, 0, 0, 0, 0, 0] = .error .badOperand := by decide

/-! ### One word for every constructor (R110, R113 to R116; byte 1 and the operand layout: assumption 1) -/

/-- Type I: `0000hVrr`, `0001hVrr`, `001uhVrr`, `010uhVrr`, `011uhVrr`. -/
theorem test_decode_typeI :
    decode 0xF0 [0b00001110, 0] = .ok (.restore true true 2) ∧ decode 0xF0 [0b00010101, 0] = .ok (.seek false true 1) ∧
    decode 0xF0 [0b00110011, 0] = .ok (.step true false false 3) ∧
    decode 0xF0 [0b01001100, 0] = .ok (.stepIn false true true 0) ∧
    decode 0xF0 [0b01110001, 0] = .ok (.stepOut true false false 1) := by decide

/-- Type II: `100mSECx`, `101mSECa`. -/
theorem test_decode_typeII :
    decode 0xF0 [0b10010010, 0] = .ok (.readSector true false false true false) ∧
    decode 0xF0 [0b10101101, 0] = .ok (.writeSector false true true false true) := by decide

/-- Type III: `1100xExx`, `1110xExx`, `1111xExx`; Type IV: `1101IIII`. -/
theorem test_decode_typeIII_IV :
    decode 0xF0 [0b11000100, 0] = .ok (.readAddress false true false false) ∧
    decode 0xF0 [0b11101001, 0] = .ok (.readTrack true false false true) ∧
    decode 0xF0 [0b11110100, 0] = .ok (.writeTrack false true false false) ∧
    decode 0xF0 [0b11010110, 0] = .ok (.forceInterrupt false true true false) := by decide

/-- The ports at 0xF0 to 0xF4. -/
theorem test_decode_ports :
    decode 0xF0 [0xF0, 1] = .ok .rdStatus ∧ decode 0xF0 [0xF0, 2, 0xD0] = .ok (.wrCommand 0xD0) ∧
    decode 0xF0 [0xF1, 1] = .ok .rdTrack ∧ decode 0xF0 [0xF1, 2, 7] = .ok (.wrTrack 7) ∧
    decode 0xF0 [0xF2, 1] = .ok .rdSector ∧ decode 0xF0 [0xF2, 2, 3] = .ok (.wrSector 3) ∧
    decode 0xF0 [0xF3, 1] = .ok .rdData ∧ decode 0xF0 [0xF3, 2, 0xE5] = .ok (.wrData 0xE5) ∧
    decode 0xF0 [0xF4, 1] = .ok .rdSelect ∧ decode 0xF0 [0xF4, 2, 0x9A] = .ok (.wrSelect 0x9A) := by decide

/-- The primitives, operands least significant byte first. -/
theorem test_decode_primitives :
    decode 0xF0 [0, 3, 0x02, 0x01, 0, 0, 0, 0, 0, 0] = .ok (.advance 258) ∧
    decode 0xF0 [0, 4, 3, 1, 5, 0, 0, 0, 0, 0, 0, 0, 9, 0, 0, 0, 0, 0, 0, 0] = .ok (.registerPulse .external 5 true 9) ∧
    decode 0xF0 [0, 5, 4, 0, 0, 0, 0, 0, 0, 0] = .ok (.expire 4) ∧ decode 0xF0 [0, 6] = .ok .dispatch ∧
    decode 0xF0 [0, 7, 11, 0, 0, 0, 0, 0, 0, 0, 0] = .ok (.goto .nmi 0) := by decide

/-- What is no instruction is rejected by name: an I/O address the block does not decode, an unknown selector, a stray byte. -/
theorem test_decode_rejects :
    decode 0xF0 [0xF5, 1] = .error .notAPort ∧ decode 0xF0 [0x14, 8] = .error .unknownSelector ∧
    decode 0xF0 [0x14, 0, 1] = .error .trailingBytes ∧ decode 0xF0 [0x14] = .error .truncated := by decide

/-! ### Small states -/

/-- The state an outcome goes on with. -/
def after (o : Host.Outcome State Fault Refusal) : Option State :=
  match o with
  | .next s => some s
  | _ => none

/-- A track of four gap bytes. -/
def smallTrack : Track := { len := 4, data := Memory.ofBytes 0 [0x4E, 0x4E, 0x4E, 0x4E], index := [] }

/-- A track that fills a record of declared length 136, with one ID mark at 2. -/
def fullTrack : Track :=
  { len := 8, data := Memory.ofBytes 0 [0x4E, 0xA1, 0xFE, 0x00, 0x4E, 0x00, 0xFB, 0x4E], index := [{ offset := 2, dd := true }] }

/-- A medium of one track, whose capacity is 8 raw bytes. -/
def mediumOf (T : Track) : Medium :=
  { tracksPerSide := 1, sides := 1, singleByte := false, declLen := 136, writeProtected := false, changed := false, path := "",
    tracks := [T] }

/-- Drive 0 holds `m` with its head at `p`; the others are empty. -/
def drivesWith (p : Nat) (m : Option Medium) : Vector Drive 4 :=
  #v[{ physTrack := p, medium := m }, { physTrack := 0, medium := none }, { physTrack := 0, medium := none },
     { physTrack := 0, medium := none }]

/-- The state `fresh(m, 0x81)` of 95_test_vectors.md: drive 0 selected in double density at tick 0, its head at `p`. -/
def fresh (p : Nat) (m : Option Medium) : State :=
  { State.reset with
    drives := drivesWith p m
    fdc := { Fdc.reset with dd := true }
    motorOn := true
    motorPulse := some 0
    lastReady := m.isSome
    clk := { ticks := 0, nextSeq := 1, nextHandle := 1
             pulses := [{ handle := 0, trigger := 4055040000, cb := .motorOff, periodic := false, period := 0,
                          expired := false, seq := 0 }] } }

/-- `fresh` with a medium of the one track `T`, running command `k` of byte `b`, in state `op`. -/
def running (T : Track) (b : Byte) (k : CmdKind) (op : OpStatus) : State :=
  (fresh 0 (some (mediumOf T))).withFdc { Fdc.reset with dd := true, busy := true, cr := b, cmd := k, op := op }

/-- The trigger of the sequencer's pulse. -/
def nextFdcStep (s : State) : Option Nat := (s.clk.pulses.find? fun e => e.cb == .fdcStep).map Pulse.trigger

/-! ### The commands -/

/-- R202's example T1.2: from physTrack 3 the first of three steps, 30_000 us each. -/
theorem test_restore_steps :
    (after (exec (.restore false false 3) (fresh 3 (some (mediumOf smallTrack))))).map
      (fun t => (t.fdc.tr, (t.drive 0).physTrack, nextFdcStep t, t.fdc.busy)) = some (0xFE, 2, some 60825600, true) := by
  decide +kernel

/-- T1.1: with no drive selected Restore steps all the same. -/
theorem test_restore_without_drive :
    (after (exec (.restore false false 0) { State.reset with fdc := { Fdc.reset with selDrive := none } })).map
      (fun t => (t.fdc.tr, t.fdc.stepsDone, nextFdcStep t)) = some (0xFE, 1, some 12165120) := by decide +kernel

/-- R.6: Seek to where the head is completes inside the write, and the status reads 0x06. -/
theorem test_seek_in_place :
    (after (exec (.seek false false 0) (fresh 0 (some (mediumOf smallTrack))))).map
      (fun t => (t.fdc.busy, t.fdc.intrq, t.status)) = some (false, true, 0x06) := by decide +kernel

/-- T1.6: a Seek past the last head position goes on counting TR. -/
theorem test_seek_clamps :
    (after (exec (.seek false false 0)
      ((fresh 79 (some (mediumOf smallTrack))).withFdc { Fdc.reset with tr := 79, dr := 90 }))).map
      (fun t => (t.fdc.tr, (t.drive 0).physTrack, t.fdc.lastDir)) = some (80, 79, .inward) := by decide +kernel

/-- T1.5: Step follows the last direction. -/
theorem test_step_follows_last_direction :
    (after (exec (.step true false false 0)
      ((fresh 4 (some (mediumOf smallTrack))).withFdc { Fdc.reset with tr := 4, lastDir := .outward }))).map
      (fun t => (t.fdc.tr, (t.drive 0).physTrack)) = some (3, 3) := by decide +kernel

/-- R204: without u, TR stays. -/
theorem test_step_without_update :
    (after (exec (.step false false false 0)
      ((fresh 4 (some (mediumOf smallTrack))).withFdc { Fdc.reset with tr := 9 }))).map
      (fun t => (t.fdc.tr, (t.drive 0).physTrack)) = some (9, 5) := by decide +kernel

/-- T1.4: the head is clamped, TR is not. -/
theorem test_step_in_clamps :
    (after (exec (.stepIn true false false 0)
      ((fresh 79 (some (mediumOf smallTrack))).withFdc { Fdc.reset with tr := 79 }))).map
      (fun t => (t.fdc.tr, (t.drive 0).physTrack, nextFdcStep t)) = some (80, 79, some 12165120) := by decide +kernel

/-- T1.3: Step Out at track 0 completes inside the write with TR 0. -/
theorem test_step_out_at_track_0 :
    (after (exec (.stepOut false false false 0)
      ((fresh 0 (some (mediumOf smallTrack))).withFdc { Fdc.reset with tr := 7 }))).map
      (fun t => (t.fdc.tr, t.fdc.intrq, t.status)) = some (0, true, 0x06) := by decide +kernel

/-- T2.6: with no medium Read Sector ends at once, NOT READY. -/
theorem test_read_sector_not_ready :
    (after (exec (.readSector false false false false false) (fresh 0 none))).map
      (fun t => (t.status, t.fdc.intrq)) = some (0x80, true) := by decide +kernel

/-- R231: the search begins one byte-time after the command. -/
theorem test_read_sector_searches :
    (after (exec (.readSector false false false false false) (fresh 0 (some (mediumOf smallTrack))))).map
      (fun t => (t.status, t.fdc.op, nextFdcStep t)) = some (0x01, .seekingIdam, some 64880) := by decide +kernel

/-- P7: a write-protected medium refuses Write Sector, WRITE PROTECT in the status. -/
theorem test_write_sector_protected :
    (after (exec (.writeSector false false false false false)
      (fresh 0 (some { mediumOf smallTrack with writeProtected := true })))).map
      (fun t => (t.status, t.drives == (fresh 0 (some { mediumOf smallTrack with writeProtected := true })).drives)) =
      some (0x40, true) := by decide +kernel

/-- R230 with E: Write Sector waits out the settle delay of 30_000 us. -/
theorem test_write_sector_settles :
    (after (exec (.writeSector false false true false false) (fresh 0 (some (mediumOf smallTrack))))).map
      (fun t => (t.fdc.op, nextFdcStep t)) = some (.delay, some 60825600) := by decide +kernel

/-- R270: Read Address starts the same search. -/
theorem test_read_address_searches :
    (after (exec (.readAddress false false false false) (fresh 0 (some (mediumOf smallTrack))))).map
      (fun t => (t.fdc.cr, t.fdc.op, nextFdcStep t)) = some (0xC0, .seekingIdam, some 64880) := by decide +kernel

/-- R279, R280: at tick 0, an index tick, the first slot of Read Track is read at once. -/
theorem test_read_track_first_slot :
    (after (exec (.readTrack false false false false) (fresh 0 (some (mediumOf smallTrack))))).map
      (fun t => (t.fdc.dr, t.fdc.drq, t.fdc.slot, t.status)) = some (0x4E, true, 1, 0x03) := by decide +kernel

/-- T3.1: a write-protected medium refuses Write Track. -/
theorem test_write_track_protected :
    (after (exec (.writeTrack false false false false)
      (fresh 0 (some { mediumOf smallTrack with writeProtected := true })))).map State.status = some 0x40 := by
  decide +kernel

/-- R286, T3.2: Write Track asks for its first byte and waits three byte-times. -/
theorem test_write_track_asks :
    (after (exec (.writeTrack false false false false) (fresh 0 (some (mediumOf smallTrack))))).map
      (fun t => (t.status, t.fdc.op, nextFdcStep t)) = some (0x03, .writeTrackDrq, some 194640) := by decide +kernel

/-- T4.1: 0xD8 latches INTRQ at once. -/
theorem test_force_interrupt_immediate :
    (after (exec (.forceInterrupt true false false false) (fresh 0 (some (mediumOf smallTrack))))).map
      (fun t => (t.fdc.intrq, t.fdc.busy, t.fdc.cr)) = some (true, false, 0xD8) := by decide +kernel

/-- R301: 0xD0 ends a running command without an interrupt. -/
theorem test_force_interrupt_terminates :
    (after (exec (.forceInterrupt false false false false) (running smallTrack 0x80 .readSector .seekingIdam))).map
      (fun t => (t.fdc.intrq, t.fdc.busy, t.fdc.op, t.fdc.statusMode)) = some (false, false, .opDone, .typeI) := by
  decide +kernel

/-! ### The ports -/

/-- R.1. -/
theorem test_status_after_power_on : (after (exec .rdStatus State.reset)).map State.hostData = some 0x84 := by
  decide +kernel

/-- R.9: a command write while busy is dropped. -/
theorem test_command_dropped_while_busy :
    (after (exec (.wrCommand 0x10) (running smallTrack 0x80 .readSector .seekingIdam))).map
      (fun t => (t.fdc.cr, t.fdc.cmd, t.fdc.busy)) = some (0x80, .readSector, true) := by decide +kernel

/-- R171: WR_COMMAND of 0x14 is Seek with verify. -/
theorem test_command_write_is_the_command :
    (after (exec (.wrCommand 0x14) (fresh 0 (some (mediumOf smallTrack))))).map
      (fun t => (t.fdc.cmd, t.fdc.op, nextFdcStep t)) = some (.seek, .verifySettle, some 60825600) := by decide +kernel

/-- R.2 to R.5. -/
theorem test_track_port :
    (after (exec .rdTrack (State.reset.withFdc { Fdc.reset with tr := 5 }))).map State.hostData = some 5 ∧
    (after (exec (.wrTrack 5) State.reset)).map (fun t => t.fdc.tr) = some 5 := by decide +kernel

theorem test_sector_port :
    (after (exec .rdSector State.reset)).map State.hostData = some 1 ∧
    (after (exec (.wrSector 3) State.reset)).map (fun t => t.fdc.sr) = some 3 := by decide +kernel

theorem test_data_port :
    (after (exec .rdData (State.reset.withFdc { Fdc.reset with dr := 0x10, drq := true }))).map
      (fun t => (t.hostData, t.fdc.drq)) = some (0x10, false) ∧
    (after (exec (.wrData 0x10) (State.reset.withFdc { Fdc.reset with drq := true }))).map
      (fun t => (t.fdc.dr, t.fdc.drq)) = some (0x10, false) := by decide +kernel

theorem test_select_port_read : (after (exec .rdSelect State.reset)).map State.hostData = some 0xFF := by decide +kernel

/-- R.7. -/
theorem test_select_write :
    (after (exec (.wrSelect 0x9A) State.reset)).map
      (fun t => (t.fdc.selDrive, t.fdc.side, t.fdc.dd, t.motorOn, t.clk.pulses.map Pulse.trigger)) =
      some (some 1, true, true, true, [4055040000]) := by decide +kernel

/-- R.8. -/
theorem test_select_none :
    (after (exec (.wrSelect 0x00) State.reset)).map (fun t => (t.fdc.selDrive, t.motorOn, t.status)) =
      some (none, false, 0x80) := by decide +kernel

/-- R452: turned from drive 1 to the four raw bytes of drive 0 the cursor 7 is taken modulo 4; where the drive stays, so does it; an idle controller keeps its cursor. -/
theorem test_select_takes_cursor_modulo :
    let turned := fun (f : Fdc) => (after (exec (.wrSelect 0x81)
      ((fresh 0 (some (mediumOf smallTrack))).withFdc f))).map fun t => t.fdc.cursor
    turned { Fdc.reset with selDrive := some 1, busy := true, cursor := 7 } = some 3 ∧
    turned { Fdc.reset with selDrive := some 0, busy := true, cursor := 7 } = some 7 ∧
    turned { Fdc.reset with selDrive := some 1, cursor := 7 } = some 7 := by decide +kernel

/-- P_NUM_DRIVES 2 (R9): drive 3 is absent; its bit selects none (assumption 25) but starts the motor (R179, R422), and
mounting in it is refused. -/
theorem test_absent_drive :
    let s := { State.reset with cfg := { Config.default with numDrives := 2 } }
    (after (exec (.wrSelect 0x08) s)).map (fun t => (t.fdc.selDrive, t.motorOn)) = some (none, true) ∧
    s.operate (.eject 3) = .refused .noSuchDrive := ⟨by decide +kernel, rfl⟩

/-! ### The primitives -/

/-- S4, after its registration: a unit of 5 T-states fires a 1_000-tick periodic pulse five times; the next trigger is 6_000. -/
theorem test_advance_periodic :
    (after (exec (.advance 5) { State.reset with clk := {
        ticks := 0, nextSeq := 1, nextHandle := 1
        pulses := [{ handle := 0, trigger := 1000, cb := .external, periodic := true, period := 1000, expired := false,
                     seq := 0 }] } })).map (fun t => (t.clk.ticks, t.clk.pulses.map Pulse.trigger, t.clk.nextSeq)) =
      some (5000, [6000], 6) := by decide +kernel

/-- R141: past 2^64 ticks is the Fatal ClockOverflow. -/
theorem test_advance_overflow :
    (after (exec (.advance (2 ^ 60)) State.reset)).map State.fault = some (some .clockOverflow) := by decide +kernel

/-- S1, S2, S3. -/
theorem test_register_pulse_zero_delay :
    (after (exec (.registerPulse .external 0 false 0) State.reset)).map (fun t => t.clk.pulses) = some [] := by
  decide +kernel

theorem test_register_pulse_faults :
    (after (exec (.registerPulse .external 2000 true 0) State.reset)).map State.fault = some (some .zeroPeriod) ∧
    (after (exec (.registerPulse .external 0 true 10) State.reset)).map State.fault =
      some (some .zeroDelayPeriodic) := by decide +kernel

/-- S5: the expired entry is marked, and does not fire. -/
theorem test_expire :
    (after (exec (.expire 0) (fresh 0 none))).map (fun t => t.clk.pulses.map Pulse.expired) = some [true] := by
  decide +kernel

/-- E10, R149, R150: of two entries due at one tick the one registered first fires first, wherever it stands in the list; here
it is a stale command pulse, whose Fatal keeps the other from firing. -/
theorem test_dispatch_order :
    (after (exec .dispatch { fresh 0 none with clk := {
        ticks := 5000, nextSeq := 2, nextHandle := 2
        pulses := [{ handle := 1, trigger := 5000, cb := .motorOff, periodic := false, period := 0, expired := false, seq := 1 },
                   { handle := 0, trigger := 5000, cb := .fdcStep, periodic := false, period := 0, expired := false,
                     seq := 0 }] } })).map (fun t => (t.motorOn, t.fault, t.clk.pulses.map Pulse.handle)) =
      some (true, some .staleCommandPulse, [1]) := by decide +kernel

/-- R242: a deleted data mark after three sync bytes starts the data field; C1's `F8` seed value. -/
theorem test_goto_seeking_dam :
    (after (exec (.goto .seekingDam 0)
      ((running { smallTrack with data := Memory.ofBytes 0 [0xF8, 0x4E, 0x4E, 0x4E] } 0x80 .readSector .seekingDam).withFdc
        { Fdc.reset with dd := true, busy := true, cr := 0x80, cmd := .readSector, recent := #v[0xA1, 0xA1, 0xA1] }))).map
      (fun t => (t.fdc.op, t.fdc.recordType, t.fdc.crc == crcBytes 0x1021 0xCDB4 [0xF8])) =
      some (.readingData, true, true) := by decide +kernel

/-- The placed table word is what the next step runs. -/
theorem test_placed_word :
    (after (step (State.reset.withFetchWord 8 0x14))).map (fun t => (t.fdc.cr, t.fdc.cmd, t.script)) =
      some (0x14, .seek, []) := by decide +kernel

/-- R148: an idle controller's pulse is stale. -/
theorem test_goto_stale :
    (after (exec (.goto .nmi 0) State.reset)).map State.fault = some (some .staleCommandPulse) := by decide +kernel

/-! ### The CRC, the codec and the image file -/

/-- C1, and R323's seed. -/
theorem test_crc_values :
    crcBytes 0x1021 0xFFFF [0x31, 0x32, 0x33, 0x34, 0x35, 0x36, 0x37, 0x38, 0x39] = 0x29B1 ∧
    crcBytes 0x1021 0xFFFF [0xA1, 0xA1, 0xA1] = 0xCDB4 ∧ crcBytes 0x1021 0xFFFF [0xFE] = 0xEF21 ∧
    crcBytes 0x1021 0xCDB4 [0xFE] = 0xB230 ∧ crcBytes 0x1021 0xCDB4 [0xFE, 0, 0, 0, 1] = 0xC93D ∧
    crcBytes 0x1021 0xFFFF [0xFE, 0, 0, 0, 1] = 0xF1D3 := by decide +kernel

/-- C2. -/
theorem test_interleave : interleave Config.default 10 = [0, 7, 4, 1, 8, 5, 2, 9, 6, 3] := by decide +kernel

/-- D3: the refusals of the header. -/
theorem test_load_errors :
    loadImage Config.default "" (List.replicate 10 0) = .error .tooShort ∧
    loadImage Config.default "" ([0, 1, 0, 2, 0x80] ++ List.replicate 11 0) = .error .ignoreDensityUnsupported ∧
    loadImage Config.default "" ([0, 0, 0, 2, 0] ++ List.replicate 11 0) = .error .badTrackCount ∧
    loadImage Config.default "" ([0, 1, 0x80, 0, 0] ++ List.replicate 11 0) = .error .badTrackLength ∧
    loadImage Config.default "" ([0, 1, 0, 1, 0x10] ++ List.replicate 111 0) = .error .truncated := by decide +kernel

/-! ### Witnesses: concrete states and operands that meet the hypotheses of each statement that has some -/

/-- `fresh` with a medium of the one track `smallTrack` and the controller `f`. -/
def withSmall (f : Fdc) : State := (fresh 0 (some (mediumOf smallTrack))).withFdc f

/-- A controller running command `k` of byte `b` in state `op`. -/
def busyFdc (b : Byte) (k : CmdKind) (op : OpStatus) : Fdc :=
  { Fdc.reset with dd := true, busy := true, cr := b, cmd := k, op := op }

/-- The hypotheses of the statements about a handler. -/
abbrev Runs (s : State) : Prop := s.fault = none ∧ s.fdc.busy = true ∧ legalConfig s.cfg = true

/-- The hypotheses of the statements about an accepted command. -/
abbrev Idle (s : State) : Prop := s.fault = none ∧ s.fdc.busy = false ∧ legalConfig s.cfg = true

/-- The invariant holds of these states. -/
theorem inv_withSmall (f : Fdc) (h : f.errorCount ≤ 1) (h' : f.newIndex.length ≤ 64) : (withSmall f).Inv where
  legal := by
    show legalConfig Config.default = true
    decide +kernel
  aligned := by show 0 % _ = 0; simp
  bounded := by show (0 : Nat) < 2 ^ 64; decide
  future := by
    intro _
    show ∀ e ∈ (fresh 0 none).clk.pulses, e.expired = false → 0 < e.trigger
    decide
  periods := by
    show ∀ e ∈ (fresh 0 none).clk.pulses, e.periodic = true → 0 < e.period
    decide
  handles := by
    show ∀ e ∈ (fresh 0 none).clk.pulses, e.handle < 1
    decide
  seqs := by
    show ∀ e ∈ (fresh 0 none).clk.pulses, e.seq < 1
    decide
  oneError := h
  heads := by
    have key : ∀ n : Fin 4, ((fresh 0 (some (mediumOf smallTrack))).drive n).physTrack ≤ 79 := by
      clear h h'
      decide +kernel
    exact key
  media := by
    have key : ∀ n : Fin 4, ∀ m ∈ ((fresh 0 (some (mediumOf smallTrack))).drive n).medium,
        m.formKept Config.default = true := by
      clear h h'
      decide +kernel
    exact fun n m hm => key n m hm
  newIndex := h'
  selected := fun n _ => n.isLt

/-- The sequencer's invariant holds of an idle one in OpDone, and of a busy one that waits in a state of its command. -/
theorem seqInv_withSmall (f : Fdc) (hi : f.busy = false → f.op = .opDone) (hw : f.busy = true → waitsIn f.cmd f.op = true)
    (hb : f.op = .readingAddressData → f.idIdx < 6) : (withSmall f).SeqInv where
  idle := by
    intro h
    refine ⟨hi h, ?_⟩
    show ∀ e ∈ (fresh 0 none).clk.pulses, ¬ (e.expired = false ∧ e.cb = .fdcStep)
    decide
  waiting := hw
  command := by
    have key : ∀ e ∈ (fresh 0 none).clk.pulses, ¬ (e.expired = false ∧ e.cb = .fdcStep) := by decide
    exact fun e he hl => absurd hl (key e he)
  motor := by
    show ∀ e ∈ (fresh 0 none).clk.pulses, (e.expired = false ∧ e.cb = .motorOff) → some 0 = some e.handle ∧ e.periodic = false
    decide
  index := by
    have key : ∀ e ∈ (fresh 0 none).clk.pulses, ¬ (e.expired = false ∧ e.cb = .indexIrq) := by decide
    exact fun e he hl => absurd hl (key e he)
  distinct := by
    show (fresh 0 none).clk.pulses.Pairwise fun a b => a.handle ≠ b.handle
    decide
  fresh := by
    show ∀ e ∈ (fresh 0 none).clk.pulses, e.handle < 1
    decide
  idBuffer := hb

/-- The order of the indexes holds of an idle one, and of a writing one whose new index is in order behind the cursor. -/
theorem indexInv_withSmall (f : Fdc) (hr : ascendingFrom 0 f.newIndex = true) (hb : ∀ e ∈ f.newIndex, e.offset < f.cursor)
    (hc : f.cursor ≤ 4) : (withSmall f).IndexInv where
  indexes := by
    have key : ∀ n : Fin 4, ∀ m ∈ ((fresh 0 (some (mediumOf smallTrack))).drive n).medium, ∀ T ∈ m.tracks,
        T.indexOk Config.default = true := by
      clear hr hb hc
      decide +kernel
    exact fun n m hm => key n m hm
  rising := fun _ => hr
  behind := fun _ => hb
  inside := by
    intro _ T hT
    have key : ∀ n : Fin 4, ∀ m ∈ ((fresh 0 (some (mediumOf smallTrack))).drive n).medium, ∀ T ∈ m.tracks, T.len = 4 := by
      clear hr hb hc
      decide +kernel
    have hl : T.len = 4 := by
      revert hT
      show (match f.selDrive with
        | some n => match ((fresh 0 (some (mediumOf smallTrack))).drive n).medium with
          | some m => m.track ((fresh 0 (some (mediumOf smallTrack))).drive n).physTrack f.side
          | none => none
        | none => none) = some T → T.len = 4
      split
      · split
        · rename_i m hm
          intro h
          unfold Medium.track at h
          split at h
          · exact key _ m hm T (List.mem_of_getElem? h)
          · cases h
        · intro h; cases h
      · intro h; cases h
    exact ⟨fun e he => by have := hb e he; omega, .inl (show f.cursor ≤ T.len by omega)⟩

theorem witness_DecodeOfEncode :
    (Instr.advance (2 ^ 64 - 1)).wf = true ∧ (Instr.registerPulse .external (2 ^ 64 - 1) true (2 ^ 64 - 1)).wf = true ∧
    (Instr.goto .writingTrack 0).wf = true ∧ (Instr.wrSelect 0xFF).wf = true := by decide

theorem witness_EncodeOfDecode : decode 0xF0 [0xF1, 2, 5, 0, 0] = .ok (.wrTrack 5) := by decide

theorem witness_StepRunsDecoded_script :
    let s := { State.reset with script := [.word [0x14, 0]] }
    s.fault = none ∧ s.operatorNow = none ∧ s.held = false ∧ s.script = .word [0x14, 0] :: [] ∧
      decode s.cfg.portBase [0x14, 0] = .ok (.seek false true 0) := by decide +kernel

theorem witness_StepRunsDecoded_placed :
    State.reset.fault = none ∧ State.reset.cfg.portBase = 0xF0 ∧
      decodeTableWord 8 0x14 = some (.seek false true 0) := by decide +kernel

theorem witness_FaultStops : ({ State.reset with fault := some .zeroPeriod } : State).fault = some .zeroPeriod := rfl

/-- Held, with the next entry one tick past the wait-state tick. -/
theorem witness_HeldTick :
    let s := { withSmall { Fdc.reset with waitReq := true } with clk := {
      ticks := 4055038999, nextSeq := 1, nextHandle := 1, pulses := (fresh 0 none).clk.pulses } }
    s.fault = none ∧ s.operatorNow = none ∧ s.fdc.waitReq = true ∧ s.inUnit = false ∧
      s.clk.ticks + s.cfg.waitTstates * s.cfg.ticksPerTstate < 2 ^ 64 ∧
      ∀ e ∈ s.clk.pulses, e.expired = false → s.clk.ticks + s.cfg.waitTstates * s.cfg.ticksPerTstate < e.trigger := by
  decide +kernel

theorem witness_StatusRead : (withSmall Fdc.reset).fault = none := rfl

theorem witness_StatusBits :
    (withSmall Fdc.reset).fdc.statusMode = .typeI ∧
    (withSmall { Fdc.reset with statusMode := .typeII_III }).fdc.statusMode = .typeII_III := ⟨rfl, rfl⟩

theorem witness_RegisterPorts : (withSmall (busyFdc 0x80 .readSector .readingData)).fault = none := rfl

/-- One drive bit, also of a drive that is absent, and none; the four drives; SelectDrive as the Host's next item. -/
theorem witness_SelectWrite :
    let few := { State.reset with cfg := { Config.default with numDrives := 2 } }
    let s := { running smallTrack 0xF0 .writeTrack .writingTrack with script := [.selectDrive 3 true] }
    (State.reset.fault = none ∧ legalConfig State.reset.cfg = true ∧ State.reset.cfg.numDrives = 4) ∧
    (few.fault = none ∧ legalConfig few.cfg = true) ∧
    ((0x81 : Byte) &&& 0x0F = 1#8 <<< (0 : Fin 4).val ∧ (0x98 : Byte) &&& 0x0F = 1#8 <<< (3 : Fin 4).val) ∧
    (0xC0 : Byte) &&& 0x0F = 0 ∧
    s.fault = none ∧ legalConfig s.cfg = true ∧ s.operatorNow = none ∧ s.held = false ∧
      s.script = .selectDrive 3 true :: [] := by decide +kernel

theorem witness_MotorTimeout : (withSmall { Fdc.reset with armI1 := true }).fault = none := rfl

/-- An idle controller; a busy one and a Force Interrupt; a busy one and another command. -/
theorem witness_CommandWrite :
    Idle (withSmall Fdc.reset) ∧ kindOf 0x10 ≠ .forceInterrupt ∧
    Runs (withSmall (busyFdc 0x80 .readSector .seekingIdam)) ∧ kindOf 0xD0 = .forceInterrupt := by decide +kernel

theorem witness_PortAccessKeepsBytes :
    ∃ t, legalConfig (withSmall Fdc.reset).cfg = true ∧ (Instr.wrTrack 5).portAccess = true ∧
      exec (.wrTrack 5) (withSmall Fdc.reset) = .next t := ⟨_, by decide +kernel, rfl, rfl⟩

theorem witness_RestoreAndSeek : Idle (withSmall Fdc.reset) := by decide +kernel

theorem witness_StepCommands : Idle (withSmall { Fdc.reset with lastDir := .outward }) := by decide +kernel

/-- Each kind of loop, Restore also at its ceiling. -/
theorem witness_TypeISteps :
    let s := withSmall { busyFdc 0x03 .restore .typeIStep with stepsDone := 255, selDrive := none }
    let q := withSmall (busyFdc 0x10 .seek .typeIStep)
    let u := withSmall (busyFdc 0x60 .stepOut .typeIStep)
    (Runs s ∧ s.fdc.cmd.isTypeI = true ∧ s.fdc.cmd = .restore ∧ s.fdc.stepsDone = s.cfg.restoreLimit ∧ s.trk0 = false) ∧
    (Runs q ∧ q.fdc.cmd.isTypeI = true ∧ q.fdc.cmd = .seek) ∧ (Runs u ∧ u.fdc.cmd.isTypeI = true ∧ u.fdc.cmd = .stepOut) := by
  decide +kernel

/-- Another track's ID; the right track with a bad CRC; the right track with a good one. -/
theorem witness_VerifyPhase :
    let f := busyFdc 0x14 .seek .verifyTrack
    let a := withSmall { f with idBuf := #v[1, 0, 0, 0, 0, 0] }
    let b := withSmall { f with crc := 1 }
    let c := withSmall f
    (Runs a ∧ a.fdc.cmd.isTypeI = true ∧ a.fdc.idBuf[0] ≠ a.fdc.tr) ∧
    (Runs b ∧ b.fdc.cmd.isTypeI = true ∧ b.fdc.idBuf[0] = b.fdc.tr ∧ ¬ idGood b.fdc) ∧
    (Runs c ∧ c.fdc.cmd.isTypeI = true ∧ c.fdc.idBuf[0] = c.fdc.tr ∧ idGood c.fdc) := by
  unfold idGood; decide +kernel

theorem witness_SectorCommands : Idle (withSmall Fdc.reset) := by decide +kernel

theorem witness_TrackCommands : Idle (withSmall { Fdc.reset with selDrive := none }) := by decide +kernel

theorem witness_SettleEnds :
    ∀ k ∈ [CmdKind.readSector, .writeSector, .readAddress, .readTrack, .writeTrack],
      Runs (withSmall (busyFdc 0x84 k .delay)) ∧ (withSmall (busyFdc 0x84 k .delay)).fdc.count = 0 ∧
      (withSmall (busyFdc 0x84 k .delay)).fdc.cmd = k := by decide +kernel

/-- `fresh` with `fullTrack`, the head at raw position `p`, in double density. -/
def overMark (p : Nat) : State :=
  (fresh 0 (some (mediumOf fullTrack))).withFdc { busyFdc 0x80 .readSector .seekingIdam with cursor := p }

/-- The mark at 2 is the one covered entry at cursor 2, and also at cursor 10 in the track of eight raw bytes. -/
theorem witness_LogicalRead_hit :
    ∀ p ∈ [2, 10], ∃ T, (overMark p).curTrack = some T ∧ ({ offset := 2, dd := true } : IdamEntry) ∈ T.index ∧
      0 < (overMark p).stride ∧ 2 = ((overMark p).fdc.cursor + 0) % T.len ∧ true = (overMark p).fdc.dd ∧
      T.data.read 2 = 0xFE ∧ ∀ e ∈ T.index, 2 ≤ e.offset := by
  intro p hp
  refine ⟨fullTrack, ?_⟩
  revert p
  decide +kernel

/-- At cursors 1 and 3 the stride of 1 covers no entry. -/
theorem witness_LogicalRead_no_hit :
    ∀ p ∈ [1, 3], ∃ T, (overMark p).curTrack = some T ∧
      ∀ e ∈ T.index, ∀ i, i < (overMark p).stride → e.offset ≠ ((overMark p).fdc.cursor + i) % T.len := by
  intro p hp
  refine ⟨fullTrack, ?_⟩
  revert p
  decide +kernel

theorem witness_LogicalRead_absent : State.reset.curTrack = none := by decide +kernel

/-- The ceiling reached exactly; one tick short of it, over a mark and beside one. -/
theorem witness_SeekingIdam :
    let at_ := fun p t => { overMark p with clk := { (overMark p).clk with ticks := t } }
    (∀ s ∈ [at_ 2 2027520000, at_ 2 2027519999, at_ 3 2027519999], Runs s ∧ s.fdc.cmd.searches = true) ∧
    (at_ 2 2027520000).cfg.revLimit * tpr (at_ 2 2027520000).cfg =
      (at_ 2 2027520000).clk.ticks - (at_ 2 2027520000).fdc.searchStart ∧
    (at_ 2 2027519999).logicalByte.2 = true ∧ (at_ 3 2027519999).logicalByte.2 = false := by decide +kernel

/-- The controller reading the last ID byte, which `smallTrack` gives as 0x4E, for the ID (t, 0, 1, 1) of CRC 0x12:0x4E. -/
def lastIdByte (k : CmdKind) (t : Byte) (crc : Half) : Fdc :=
  { busyFdc 0x80 k .readingAddressData with idIdx := 5, idBuf := #v[t, 0, 1, 1, 0x12, 0], crc := crc }

/-- The `g` of the statement ReadingId: the controller once the byte is in the ID buffer. -/
def idByteRead (s : State) : Fdc :=
  { s.afterRead.fdc with
    idBuf := s.fdc.idBuf.setIfInBounds s.fdc.idIdx s.logicalByte.1
    idIdx := s.fdc.idIdx + 1
    crc := if s.fdc.idIdx + 1 ≤ 4 then crcUpdate s.cfg.crcPoly s.fdc.crc s.logicalByte.1 else s.fdc.crc }

/-- The bytes before the last; then, for each command, another track's ID, the wanted one with a bad CRC, and with a good one. -/
theorem witness_ReadingId :
    (∀ i ∈ [0, 3, 4], Runs (withSmall { busyFdc 0x80 .readSector .readingAddressData with idIdx := i }) ∧ i < 6 ∧ i < 5) ∧
    ∀ k ∈ [CmdKind.readSector, .writeSector, .seek],
      let a := withSmall (lastIdByte k 7 0)
      let b := withSmall (lastIdByte k 0 0)
      let c := withSmall (lastIdByte k 0 0x124E)
      (∀ s ∈ [a, b, c], Runs s ∧ s.fdc.idIdx = 5 ∧ s.fdc.cmd = k ∧
        (s.fdc.cmd.isTypeI = true ∨ s.fdc.cmd = .readSector ∨ s.fdc.cmd = .writeSector)) ∧
      (idByteRead a).idBuf[0] ≠ (idByteRead a).tr ∧ ¬ idWanted (idByteRead a) ∧
      (idByteRead b).idBuf[0] = (idByteRead b).tr ∧ idWanted (idByteRead b) ∧ ¬ idGood (idByteRead b) ∧
      (idByteRead c).idBuf[0] = (idByteRead c).tr ∧ idWanted (idByteRead c) ∧ idGood (idByteRead c) := by
  unfold idGood idWanted; decide +kernel

/-- A mark after the sync bytes; no mark at the last position of the window, and at the one before. -/
theorem witness_SeekingDam :
    let f := busyFdc 0x80 .readSector .seekingDam
    let a := (fresh 0 (some (mediumOf fullTrack))).withFdc { f with cursor := 6, recent := #v[0xA1, 0xA1, 0xA1] }
    let b := withSmall { f with count := 42 }
    let c := withSmall { f with count := 41 }
    (∀ s ∈ [a, b, c], Runs s ∧ s.fdc.cmd = .readSector) ∧
    (a.logicalByte.1 = 0xFB ∧ a.fdc.recent = #v[0xA1, 0xA1, 0xA1]) ∧
    (b.logicalByte.1 = 0x4E ∧ b.cfg.damLimitDd = b.fdc.count + 1) ∧
    (c.logicalByte.1 = 0x4E ∧ c.fdc.count + 1 < c.cfg.damLimitDd) := by decide +kernel

/-- Both sides of the end of the field. -/
theorem witness_ReadingData :
    ∀ n ∈ [254, 255],
      let s := withSmall { busyFdc 0x80 .readSector .readingData with secLen := 256, count := n, drq := true }
      Runs s ∧ s.fdc.cmd = .readSector := by decide +kernel

/-- The first CRC byte; the second with a CRC it makes bad. -/
theorem witness_ReadCrc :
    ∀ n ∈ [0, 1],
      let s := withSmall { busyFdc 0x90 .readSector .readCrc with count := n }
      Runs s ∧ s.fdc.cmd = .readSector := by decide +kernel

/-- A current track, with a byte under the head and one beside it, and no track. -/
theorem witness_LogicalWrite :
    (withSmall { busyFdc 0xA0 .writeSector .writingData with selDrive := none }).Inv ∧
    (withSmall { busyFdc 0xA0 .writeSector .writingData with selDrive := none }).curTrack = none ∧
    (withSmall (busyFdc 0xA0 .writeSector .writingData)).Inv ∧
    (withSmall (busyFdc 0xA0 .writeSector .writingData)).fdc.selDrive = some 0 ∧
    ((withSmall (busyFdc 0xA0 .writeSector .writingData)).drive 0).medium = some (mediumOf smallTrack) ∧
    (withSmall (busyFdc 0xA0 .writeSector .writingData)).curTrack = some smallTrack ∧
    (withSmall (busyFdc 0xA0 .writeSector .writingData)).underHead 1 0 0 false 0 ∧
    (withSmall (busyFdc 0xA0 .writeSector .writingData)).trackByte 0 0 false 0 ≠ none ∧
    ¬ (withSmall (busyFdc 0xA0 .writeSector .writingData)).underHead 1 0 0 true 0 := by
  refine ⟨inv_withSmall _ (by decide) (by decide), rfl, inv_withSmall _ (by decide) (by decide), rfl, rfl, by decide +kernel,
    ⟨rfl, rfl, rfl, 0, by decide, by decide +kernel⟩, by decide +kernel, ?_⟩
  rintro ⟨_, _, h, _⟩
  cases h

/-- The gap byte that raises DRQ, and both sides of the end of the window. -/
theorem witness_WriteGap :
    ∀ n ∈ [1, 20, 21],
      let s := withSmall { busyFdc 0xA0 .writeSector .writeGap with count := n }
      Runs s ∧ s.fdc.cmd = .writeSector := by decide +kernel

theorem witness_WriteMark :
    ∀ n ∈ [2, 3, 10, 11],
      let s := withSmall { busyFdc 0xA1 .writeSector .writingDam with count := n }
      Runs s ∧ s.fdc.cmd = .writeSector := by decide +kernel

theorem witness_WritingData :
    ∀ n ∈ [126, 127],
      let s := withSmall { busyFdc 0xA0 .writeSector .writingData with count := n, secLen := 128, drq := true }
      Runs s ∧ s.fdc.cmd = .writeSector := by decide +kernel

theorem witness_WriteEnd :
    ∀ n ∈ [0, 1],
      let s := withSmall { busyFdc 0xB0 .writeSector .writeCrc with count := n }
      Runs s ∧ s.fdc.cmd = .writeSector := by decide +kernel

theorem witness_SectorWriteFrame :
    ∃ t, (withSmall (busyFdc 0xA0 .writeSector .writingFiller)).Inv ∧
      (withSmall (busyFdc 0xA0 .writeSector .writingFiller)).fdc.busy = true ∧
      (withSmall (busyFdc 0xA0 .writeSector .writingFiller)).fdc.cmd = .writeSector ∧
      exec (.goto .writingFiller 0) (withSmall (busyFdc 0xA0 .writeSector .writingFiller)) = .next t ∧
      ¬ (withSmall (busyFdc 0xA0 .writeSector .writingFiller)).underHead 1 0 0 true 0 := by
  refine ⟨_, inv_withSmall _ (by decide) (by decide), rfl, rfl, rfl, ?_⟩
  rintro ⟨_, _, h, _⟩
  cases h

theorem witness_ReadAddressByte :
    let a := withSmall { busyFdc 0xC0 .readAddress .readingAddressData with idIdx := 4 }
    let b := withSmall (lastIdByte .readAddress 7 0x124E)
    let c := withSmall (lastIdByte .readAddress 7 0)
    (∀ s ∈ [a, b, c], Runs s ∧ s.fdc.cmd = .readAddress ∧ s.fdc.idIdx < 6) ∧ a.fdc.idIdx < 5 ∧
    (b.fdc.idIdx = 5 ∧ idGood (delivered (idByteRead b) b.logicalByte.1)) ∧
    (c.fdc.idIdx = 5 ∧ ¬ idGood (delivered (idByteRead c) c.logicalByte.1)) := by
  unfold idGood; decide +kernel

/-- Both sides of the end of the revolution. -/
theorem witness_ReadTrackSlots :
    ∀ n ∈ [6249, 6250],
      let s := withSmall { busyFdc 0xE0 .readTrack .readingTrack with slot := n }
      Runs s ∧ s.fdc.cmd = .readTrack := by decide +kernel

/-- On entry; at the window's end without the byte; with it beside an index tick and on one; and the wait for the index. -/
theorem witness_WriteTrackWindow :
    let f := busyFdc 0xF0 .writeTrack .writeTrackDrq
    let at_ := fun g t => { withSmall g with clk := { (fresh 0 none).clk with ticks := t } }
    let a := withSmall f
    let b := withSmall { f with count := 1, drq := true }
    let c := at_ { f with count := 1 } 1000
    let d := at_ { f with count := 1 } (tpr Config.default)
    let e := withSmall { f with op := .seekingIndexHole }
    (∀ s ∈ [a, b, c, d, e], Runs s ∧ s.fdc.cmd = .writeTrack) ∧ a.fdc.count = 0 ∧ (b.fdc.count ≠ 0 ∧ b.fdc.drq = true) ∧
    (c.fdc.count ≠ 0 ∧ c.fdc.drq = false ∧ ticksToIndex c.cfg c.clk.ticks ≠ 0) ∧
    (d.fdc.count ≠ 0 ∧ d.fdc.drq = false ∧ ticksToIndex d.cfg d.clk.ticks = 0) := by decide +kernel

/-- Inside the track, and at its end; at the capacity and past it; no track. -/
theorem witness_WriteTrackPut :
    let at' := fun (p : Nat) (d : Option (Fin 4)) =>
      withSmall { busyFdc 0xF0 .writeTrack .writingTrack with cursor := p, selDrive := d }
    (∀ p d, (at' p d).Inv) ∧ (at' 4 none).curTrack = none ∧
    ∀ p ∈ [0, 4, 8, 9],
      let s := at' p (some 0)
      s.fdc.selDrive = some 0 ∧ (s.drive 0).medium = some (mediumOf smallTrack) ∧ s.curTrack = some smallTrack ∧
        (s.fdc.cursor ≤ smallTrack.len ∨ (mediumOf smallTrack).declLen - s.cfg.trackHdr ≤ s.fdc.cursor) :=
  ⟨fun _ _ => inv_withSmall _ (show Fdc.reset.errorCount ≤ 1 by decide) (show 0 ≤ 64 by decide), rfl, by decide +kernel⟩

/-- The last slot before the commit, with a pending CRC byte and with none. -/
theorem witness_WriteTrackSlot :
    let a := withSmall { busyFdc 0xF0 .writeTrack .writingTrack with slot := 6249, pendingCrcLo := some 0x12 }
    let b := withSmall { busyFdc 0xF0 .writeTrack .writingTrack with slot := 6249 }
    (∀ s ∈ [a, b], Runs s ∧ s.fdc.cmd = .writeTrack ∧ s.fdc.slot + 1 < slotsPerRev s.cfg s.fdc.dd) ∧
    a.fdc.pendingCrcLo = some 0x12 ∧ b.fdc.pendingCrcLo = none := by decide +kernel

theorem witness_WriteTrackCommit :
    let a := withSmall { busyFdc 0xF0 .writeTrack .writingTrack with slot := 6250, pendingCrcLo := some 0x12, cursor := 4 }
    let b := withSmall { busyFdc 0xF0 .writeTrack .writingTrack with slot := 6250, cursor := 4 }
    (∀ s ∈ [a, b], Runs s ∧ s.fdc.cmd = .writeTrack ∧ slotsPerRev s.cfg s.fdc.dd ≤ s.fdc.slot + 1) ∧
    a.fdc.pendingCrcLo = some 0x12 ∧ b.fdc.pendingCrcLo = none ∧
    (b.fdc.selDrive = some 0 ∧ (b.drive 0).medium = some (mediumOf smallTrack) ∧ b.curTrack = some smallTrack ∧
      min b.fdc.cursor ((mediumOf smallTrack).declLen - b.cfg.trackHdr) ≤ smallTrack.len) ∧
    (withSmall { busyFdc 0xF0 .writeTrack .writingTrack with selDrive := none }).curTrack = none := by decide +kernel

theorem witness_Completion :
    Runs (withSmall (busyFdc 0x80 .readSector .nmi)) ∧
    (withSmall (busyFdc 0x80 .readSector .nmi)).fdc.cmd ≠ .forceInterrupt := by decide +kernel

/-- An idle controller, and one in the writing part of Write Track. -/
theorem witness_ForceInterrupt :
    let s := withSmall (busyFdc 0xF0 .writeTrack .writingTrack)
    (s.fault = none ∧ legalConfig s.cfg = true ∧ s.fdc.busy = true ∧ s.fdc.cmd = .writeTrack ∧ s.fdc.op = .writingTrack) ∧
    Idle (withSmall Fdc.reset) := by decide +kernel

/-- The old entry at 2 beyond the cursor; no track under the head. -/
theorem witness_WriteTrackAbort :
    ((overMark 1).fdc.selDrive = some 0 ∧ ((overMark 1).drive 0).medium = some (mediumOf fullTrack) ∧
      (overMark 1).curTrack = some fullTrack) ∧ State.reset.curTrack = none := by decide +kernel

/-- A one-shot with delay 1 and a cycle of period 1; the two caller errors; the zero delay. -/
theorem witness_RegisterPulse :
    State.reset.fault = none ∧ (0 < 1 ∧ (true = true → 0 < 1)) ∧ (0 < 1 ∧ (false = true → 0 < 0)) ∧
    (true = true ∧ (0 = 0 ∨ 5 = 0)) ∧ (true = true ∧ (5 = 0 ∨ 0 = 0)) ∧
    (running smallTrack 0xF0 .writeTrack .writingTrack).fault = none := by decide

theorem witness_Expire : (fresh 0 none).fault = none := rfl

/-- Nothing due: the one entry is a tick ahead. Two entries due: the second of them is the least. -/
theorem witness_DispatchOrder :
    let a := { fresh 0 none with clk := { (fresh 0 none).clk with ticks := 4055039999 } }
    let e : Pulse := { handle := 1, trigger := 5000, cb := .external, periodic := true, period := 1, expired := false, seq := 1 }
    let e' : Pulse := { e with handle := 2, seq := 2, periodic := false }
    let b := { fresh 0 none with clk := { ticks := 5000, pulses := [e', e], nextSeq := 3, nextHandle := 3 } }
    (a.fault = none ∧ (∀ x ∈ a.clk.pulses, x.periodic = true → 0 < x.period) ∧
      ∀ x ∈ a.clk.pulses.filter (fun x => !x.expired), a.clk.ticks < x.trigger) ∧
    b.fault = none ∧ (∀ x ∈ b.clk.pulses, x.periodic = true → 0 < x.period) ∧
      e ∈ b.clk.pulses.filter (fun x => !x.expired) ∧ e.trigger ≤ b.clk.ticks ∧
      ∀ x ∈ b.clk.pulses.filter (fun x => !x.expired), x.trigger ≤ b.clk.ticks →
        x = e ∨ e.trigger < x.trigger ∨ (e.trigger = x.trigger ∧ e.seq < x.seq) := by decide +kernel

/-- The unit that ends exactly at 2^64 ticks, and the one that ends a tick before. -/
theorem witness_Advance :
    let s := fun t => { State.reset with clk := { State.reset.clk with ticks := t } }
    (s (2 ^ 64 - 1000)).fault = none ∧ (s (2 ^ 64 - 1001)).fault = none ∧
    2 ^ 64 ≤ (s (2 ^ 64 - 1000)).clk.ticks + (if (s (2 ^ 64 - 1000)).fdc.waitReq = true ∧ (s (2 ^ 64 - 1000)).inUnit = false
      then (s (2 ^ 64 - 1000)).cfg.waitTstates else 1) * (s (2 ^ 64 - 1000)).cfg.ticksPerTstate ∧
    (s (2 ^ 64 - 1001)).clk.ticks + (if (s (2 ^ 64 - 1001)).fdc.waitReq = true ∧ (s (2 ^ 64 - 1001)).inUnit = false
      then (s (2 ^ 64 - 1001)).cfg.waitTstates else 1) * (s (2 ^ 64 - 1001)).cfg.ticksPerTstate < 2 ^ 64 := by decide +kernel

/-- Idle; and running commands in states that have no handler of their family. -/
theorem witness_Goto :
    ((withSmall Fdc.reset).fault = none ∧ 0 < 1 ∧ (withSmall Fdc.reset).fdc.busy = false) ∧
    ∀ p ∈ [(CmdKind.readSector, OpStatus.writingData), (.readSector, .opDone), (.seek, .delay), (.forceInterrupt, .nmi)],
      Runs (withSmall (busyFdc 0x80 p.1 p.2)) ∧ handles (withSmall (busyFdc 0x80 p.1 p.2)).fdc.cmd p.2 = false := by
  decide +kernel

theorem witness_HardReset :
    let s := { withSmall (busyFdc 0xF0 .writeTrack .writingTrack) with script := [.resetLine] }
    s.fault = none ∧ s.operatorNow = none ∧ s.held = false ∧ s.script = .resetLine :: [] := by decide +kernel

/-- A write-protected medium in drive 0, and one that is not. -/
theorem witness_StatusAfterReset :
    (fresh 5 (some { mediumOf smallTrack with writeProtected := true })).fault = none ∧
    (∃ m, ((fresh 5 (some { mediumOf smallTrack with writeProtected := true })).drive 0).medium = some m ∧
      m.writeProtected = true) ∧
    ¬ ∃ m, ((withSmall Fdc.reset).drive 0).medium = some m ∧ m.writeProtected = true := by
  refine ⟨rfl, ⟨_, rfl, rfl⟩, ?_⟩
  rintro ⟨m, h, h'⟩
  cases h
  cases h'

/-- One sector of 128 bytes with a deleted mark and a wrong data CRC. -/
def oneSector : SectorDescriptor :=
  { track := 0, side := 0, sector := 2, sizeCode := 0, dd := true, dam := some .f8, idCrcErr := false, dataCrcErr := true,
    payload := List.replicate 128 0x5A }

/-- A track of 100 raw bytes that holds the address field of `oneSector` alone. -/
def sectorTrack : Track :=
  (encodeTrack Config.default [{ oneSector with dam := none, dataCrcErr := false }] true 100 false).getD smallTrack

/-- A medium in form; a file that loads and one that does not; an absent drive; an action that is due, also a save; and a save
while a command runs. -/
theorem witness_MountAndEject :
    let c := Config.default
    let due := fun a => { withSmall Fdc.reset with operator := [(0, a)] }
    ((0 : Fin 4).val < c.numDrives ∧ (mediumOf fullTrack).wf c = true ∧ loadImage c "a.dmk" [0, 1] = .error .tooShort ∧
      (loadImage c "a.dmk" (saveImage c (mediumOf fullTrack))).toOption.isSome = true) ∧
    ((OperatorAction.eject 3).drive = some 3 ∧ ({ c with numDrives := 2 } : Config).numDrives ≤ (3 : Fin 4).val) ∧
    (∀ a ∈ [OperatorAction.eject 0, .save 0], (due a).fault = none ∧ (due a).operator = [(0, a)] ∧ 0 ≤ (due a).clk.ticks ∧
      (due a).inUnit = false ∧ (due a).fdc.op = .opDone) ∧
    (withSmall (busyFdc 0x80 .readSector .delay)).fdc.op ≠ .opDone := by decide +kernel

/-- A medium whose one track holds one sector, whose address field is rewritten with a wrong CRC. -/
theorem witness_MountAndEject_descriptor :
    let m : Medium := { mediumOf sectorTrack with declLen := 228 }
    let s := fresh 0 (some m)
    let d := { oneSector with dam := none, dataCrcErr := false }
    (s.drive 0).medium = some m ∧ m.track 0 false = some sectorTrack ∧
    decodeTrack s.cfg sectorTrack m.singleByte = [] ++ { d with payload := [] } :: [] ∧
    (encodeTrack s.cfg ([] ++ { d with idCrcErr := true } :: []) true (m.declLen - s.cfg.trackHdr) m.singleByte).isSome = true :=
  ⟨rfl, rfl, by decide +kernel, by decide +kernel⟩

theorem witness_LoadOfSave :
    let c := Config.default
    let m := mediumOf fullTrack
    m.wf c = true ∧ c.imageHdr = 16 ∧ c.trackHdr = 2 * c.idamSlots ∧ 0 < c.trackHdr ∧ c.idamBase = c.trackHdr ∧
      c.maxTrack < 255 ∧ c.trackLenMax ≤ 0x4000 ∧ ∀ T ∈ m.tracks, T.len = m.declLen - c.trackHdr := by decide +kernel

theorem witness_CrcResidue : (0x1021 : Half).getLsbD 0 = true := by decide

/-- One sector without a data mark, and one with, each in a track it just fits. -/
theorem witness_DecodeOfEncodeTrack :
    let c := Config.default
    let d := { oneSector with dam := none, dataCrcErr := false }
    38 ≤ c.damLimitDd ∧ c.damLimitDd ≤ 46 ∧ 18 ≤ c.damLimitSd ∧ c.damLimitSd ≤ 30 ∧ (true && false) = false ∧
    (∀ x ∈ [oneSector], x.dam ≠ none) ∧ (encodeTrack c [d] true 100 false).isSome = true ∧
    (encodeTrack c [d, oneSector] true 314 false).isSome = true ∧
    (encodeTrack c [oneSector] true 250 false).isSome = true := by decide +kernel

theorem witness_StepKeepsInv :
    ∃ t, ({ withSmall Fdc.reset with script := [.word [0xF0, 1]] } : State).Inv ∧
      step { withSmall Fdc.reset with script := [.word [0xF0, 1]] } = .next t := by
  have h := inv_withSmall Fdc.reset (by decide) (by decide)
  exact ⟨_, ⟨h.1, h.2, h.3, h.4, h.5, h.6, h.7, h.8, h.9, h.10, h.11, h.12⟩, rfl⟩

theorem witness_StepKeepsSeqInv :
    ∃ t, ({ withSmall Fdc.reset with script := [.word [0xF0, 1]] } : State).Inv ∧
      ({ withSmall Fdc.reset with script := [.word [0xF0, 1]] } : State).SeqInv ∧
      (∀ i u, ({ withSmall Fdc.reset with script := [.word [0xF0, 1]] } : State).nextEvent = .instr i u →
        i.rawCall = false) ∧
      step { withSmall Fdc.reset with script := [.word [0xF0, 1]] } = .next t := by
  have h := inv_withSmall Fdc.reset (by decide) (by decide)
  have q := seqInv_withSmall Fdc.reset (by decide) (by decide) (by decide)
  refine ⟨_, ⟨h.1, h.2, h.3, h.4, h.5, h.6, h.7, h.8, h.9, h.10, h.11, h.12⟩, ⟨q.1, q.2, q.3, q.4, q.5, q.6, q.7, q.8⟩, ?_, rfl⟩
  intro i u hi
  cases hi
  rfl

/-- Write Track writes, with one entry in its new index, while the Host reads the status. -/
def writingState : State :=
  { withSmall { busyFdc 0xF0 .writeTrack .writingTrack with newIndex := [{ offset := 1, dd := true }], cursor := 3 } with
    script := [.word [0xF0, 1]] }

theorem witness_StepKeepsIndexOrder :
    writingState.Inv ∧ writingState.SeqInv ∧ writingState.IndexInv ∧ writingState.writing = true ∧
      (∀ i u, writingState.nextEvent = .instr i u → i.rawCall = false) ∧ writingState.nextEvent.keepsTrack = true ∧
      ∃ t, step writingState = .next t := by
  have h := inv_withSmall writingState.fdc (by decide) (by decide)
  have q := seqInv_withSmall writingState.fdc (by decide) (by decide) (by decide)
  have x := indexInv_withSmall writingState.fdc (by decide) (by decide) (by decide)
  refine ⟨⟨h.1, h.2, h.3, h.4, h.5, h.6, h.7, h.8, h.9, h.10, h.11, h.12⟩, ⟨q.1, q.2, q.3, q.4, q.5, q.6, q.7, q.8⟩,
    ⟨x.1, x.2, x.3, x.4⟩, rfl, ?_, rfl, _, rfl⟩
  intro i u hi
  cases hi
  rfl

theorem witness_OtherDrivesKept :
    ∃ t, exec (.wrTrack 5) (withSmall Fdc.reset) = .next t ∧ (withSmall Fdc.reset).fdc.selDrive ≠ some 1 :=
  ⟨_, rfl, by decide⟩

end Sys2Proof.Tests
end

section
/-! PROOFS. What the next step carries out (the laws of `nextEvent`), and that a step runs the decoded instruction. -/

namespace Sys2Proof.Machine

/-! ### Who acts next (R7, R96, R141) -/

theorem State.operatorNow_eq_none_iff (s : State) :
    s.operatorNow = none ↔
      ∀ t a rest, s.operator = (t, a) :: rest → t ≤ s.clk.ticks → s.inUnit = false → a.allowed s = false := by
  unfold State.operatorNow
  cases s.operator with
  | nil => simp
  | cons entry rest =>
    obtain ⟨t, a⟩ := entry
    simp

theorem State.held_eq_false_iff (s : State) : s.held = false ↔ (s.fdc.waitReq = true → s.inUnit = true) := by
  simp [State.held]

/-- The Host acts when nothing stops it: no fault mark, no due Operator action, no wait state. -/
theorem State.nextEvent_eq_hostEvent {s : State} (hfault : s.fault = none) (hop : s.operatorNow = none)
    (hheld : s.held = false) : s.nextEvent = s.hostEvent := by
  simp [State.nextEvent, hfault, hop, hheld]

theorem State.hostEvent_of_word {s : State} {bytes : List Byte} {rest : List HostItem} {i : Instr}
    (hscript : s.script = .word bytes :: rest) (hdec : decode s.cfg.portBase bytes = .ok i) :
    s.hostEvent = .instr i { s with script := rest } := by
  simp [State.hostEvent, hscript, hdec]

theorem step_of_nextEvent_instr {s u : State} {i : Instr} (h : s.nextEvent = .instr i u) : step s = exec i u := by
  simp [step, h]

theorem step_of_word {s : State} {bytes : List Byte} {rest : List HostItem} {i : Instr} (hfault : s.fault = none)
    (hop : s.operatorNow = none) (hheld : s.held = false) (hscript : s.script = .word bytes :: rest)
    (hdec : decode s.cfg.portBase bytes = .ok i) : step s = exec i { s with script := rest } :=
  step_of_nextEvent_instr ((State.nextEvent_eq_hostEvent hfault hop hheld).trans (State.hostEvent_of_word hscript hdec))

/-! ### A placed word is the next one run -/

theorem decode_layoutWord_of_decodeTableWord {nbits w : Nat} {i : Instr} (h : decodeTableWord nbits w = some i) :
    decode Config.default.portBase (layoutWord nbits w) = .ok i := by
  unfold decodeTableWord at h
  cases hdec : decode Config.default.portBase (layoutWord nbits w) with
  | ok j => simpa [hdec, Except.toOption] using h
  | error e => simp [hdec, Except.toOption] at h

/-- Only `op` decides whether an action may happen (R369), and placing a word does not touch it. -/
@[simp] theorem OperatorAction.allowed_placeWord (a : OperatorAction) (s : State) (nbits w : Nat) :
    a.allowed (s.placeWord nbits w) = a.allowed s := by
  cases a <;> rfl

/-- A due Operator action is kept back by the unit the placed word opens; without one, none becomes due. -/
theorem State.operatorNow_placeWord (s : State) (nbits w : Nat) : (s.placeWord nbits w).operatorNow = none := by
  rw [State.operatorNow_eq_none_iff]
  intro t a rest hop htime hunit
  obtain ⟨⟨hidle, -⟩, hnone⟩ : (s.inUnit = false ∧ s.held = false) ∧ s.operatorNow = none := by
    simpa [State.placeWord] using hunit
  rw [OperatorAction.allowed_placeWord]
  exact s.operatorNow_eq_none_iff.mp hnone t a rest hop htime hidle

/-- A held Host's wait ends in the unit the placed word opens; a Host that is not held stays so. -/
theorem State.held_placeWord (s : State) (nbits w : Nat) : (s.placeWord nbits w).held = false := by
  rw [State.held_eq_false_iff]
  intro hwait
  change s.fdc.waitReq = true at hwait
  simp only [State.placeWord, State.held, hwait]
  cases s.inUnit <;> simp

theorem step_withFetchWord {s : State} {nbits w : Nat} {i : Instr} (hfault : s.fault = none)
    (hbase : s.cfg.portBase = Config.default.portBase) (hdec : decodeTableWord nbits w = some i) :
    step (s.withFetchWord nbits w) = exec i { s with inUnit := s.inUnit || s.held || s.operatorNow.isSome } := by
  have hword : decode (s.placeWord nbits w).cfg.portBase (layoutWord nbits w) = .ok i := by
    rw [show (s.placeWord nbits w).cfg.portBase = Config.default.portBase from hbase]
    exact decode_layoutWord_of_decodeTableWord hdec
  exact step_of_word (s := s.placeWord nbits w) (rest := s.script) hfault (s.operatorNow_placeWord nbits w)
    (s.held_placeWord nbits w) rfl hword

/-- Settles O5: a free Host's next word is the event `nextEvent` answers, and placing a word keeps back whatever could
come before it (the Operator, a wait-state tick). -/
theorem stepRunsDecoded : Obligations.StepRunsDecoded := by
  unfold Obligations.StepRunsDecoded
  constructor
  · intro s bytes rest i hfault hop hheld hscript hdec
    exact step_of_word hfault hop hheld hscript hdec
  · intro s nbits w i hfault hbase hdec
    exact step_withFetchWord hfault hbase hdec

end Sys2Proof.Machine
end

section
/-! PROOFS. With the fault mark set nothing runs. -/

namespace Sys2Proof.Machine

theorem exec_of_fault {s : State} {r : FaultReason} (h : s.fault = some r) (i : Instr) :
    exec i s = .fault (.fatal r) := by
  cases i <;> exact guarded_fault h _

theorem step_of_fault {s : State} {r : FaultReason} (h : s.fault = some r) : step s = .fault (.fatal r) := by
  have hevent : s.nextEvent = .stopped r := by simp [State.nextEvent, h]
  simp [step, hevent]

/-- Settles O6: the fetch answers the mark before anything else, and every instruction is guarded by it. -/
theorem faultStops : Obligations.FaultStops := by
  unfold Obligations.FaultStops
  exact fun s r h => ⟨step_of_fault h, exec_of_fault h⟩

end Sys2Proof.Machine
end

section
/-! PROOFS. The current track replaced and its bytes written: which track of which medium changes, and what a logical byte
writes. -/

namespace Sys2Proof.Machine

/-! ### The tracks of a medium -/

/-- Replacing a track replaces nothing but one place of the list. -/
theorem Medium.setTrack_shape (m : Medium) (t : Nat) (side : Bool) (T : Track) :
    ∃ i, m.setTrack t side T = { m with tracks := m.tracks.set i T } := by
  unfold Medium.setTrack
  cases m.trackIndex t side with
  | none => exact ⟨m.tracks.length, by rw [List.set_eq_of_length_le (Nat.le_refl _)]⟩
  | some i => exact ⟨i, rfl⟩

theorem Medium.mem_of_track {m : Medium} {t : Nat} {side : Bool} {T : Track} (h : m.track t side = some T) :
    T ∈ m.tracks := by
  unfold Medium.track at h
  split at h
  · exact List.mem_of_getElem? h
  · cases h

theorem Medium.formKept_iff {c : Config} {m : Medium} :
    m.formKept c = true ↔ m.geometryOk c = true ∧
      ∀ T ∈ m.tracks, T.bufferOk (m.declLen - c.trackHdr) = true ∧ T.index.length ≤ c.idamSlots := by
  simp [Medium.formKept]

/-- Replacing a track by one in form keeps the medium's form. -/
theorem Medium.formKept_setTrack {c : Config} {m : Medium} {t : Nat} {side b : Bool} {T : Track}
    (h : m.formKept c = true) (hbuf : T.bufferOk (m.declLen - c.trackHdr) = true) (hidx : T.index.length ≤ c.idamSlots) :
    Medium.formKept c { m.setTrack t side T with changed := b } = true := by
  obtain ⟨hgeo, hall⟩ := Medium.formKept_iff.1 h
  obtain ⟨i, hi⟩ := m.setTrack_shape t side T
  rw [hi, Medium.formKept_iff]
  refine ⟨by simpa [Medium.geometryOk] using hgeo, fun T' hT' => ?_⟩
  rcases List.mem_or_eq_of_mem_set hT' with hmem | rfl
  · exact hall T' hmem
  · exact ⟨hbuf, hidx⟩

/-! ### The current medium -/

theorem State.curMedium_eq_some {s : State} {m : Medium} (h : s.curMedium = some m) :
    ∃ n, s.fdc.selDrive = some n ∧ (s.drive n).medium = some m := by
  unfold State.curMedium at h
  split at h
  · exact ⟨_, by assumption, h⟩
  · cases h

/-- The current track is one of the current medium's. -/
theorem State.curTrack_mem {s : State} {T : Track} (h : s.curTrack = some T) :
    ∃ m, s.curMedium = some m ∧ T ∈ m.tracks := by
  obtain ⟨n, m, hn, hm, hT⟩ := State.curTrack_eq_some h
  exact ⟨m, by simp [State.curMedium, hn, hm], Medium.mem_of_track hT⟩

theorem State.capacity_of_curMedium {s : State} {m : Medium} (h : s.curMedium = some m) :
    s.capacity = m.declLen - s.cfg.trackHdr := by
  simp [State.capacity, h]

/-! ### Replacing the current track -/

theorem State.setCurTrack_cases (s : State) (T : Track) (c : Bool) :
    s.setCurTrack T c = s ∨ ∃ n m, s.fdc.selDrive = some n ∧ (s.drive n).medium = some m ∧
      s.setCurTrack T c = s.setDrive n { (s.drive n) with
        medium := some { m.setTrack (s.drive n).physTrack s.fdc.side T with changed := c } } := by
  unfold State.setCurTrack
  cases hn : s.fdc.selDrive with
  | none => exact .inl rfl
  | some n =>
    cases hm : (s.drive n).medium with
    | none => exact .inl (by simp [hm])
    | some m => exact .inr ⟨n, m, rfl, hm, by simp [hm]⟩

/-- No head moves. -/
theorem State.setCurTrack_physTrack (s : State) (T : Track) (c : Bool) (k : Fin 4) :
    ((s.setCurTrack T c).drive k).physTrack = (s.drive k).physTrack := by
  rcases s.setCurTrack_cases T c with h | ⟨n, m, -, -, h⟩
  · rw [h]
  · rw [h, State.drive_setDrive]
    split_ifs with hk
    · rw [hk]
    · rfl

/-- Only the selected drive changes. -/
theorem State.setCurTrack_otherDrive {s : State} {k : Fin 4} (hk : s.fdc.selDrive ≠ some k) (T : Track) (c : Bool) :
    (s.setCurTrack T c).drive k = s.drive k := by
  rcases s.setCurTrack_cases T c with h | ⟨n, m, hn, -, h⟩
  · rw [h]
  · have hne : n ≠ k := fun e => hk (e ▸ hn)
    rw [h, State.drive_setDrive, if_neg hne]

/-- Every mounted medium has property `R`. -/
def State.AllMedia (s : State) (R : Medium → Prop) : Prop := ∀ n m, (s.drive n).medium = some m → R m

theorem State.AllMedia.curMedium {s : State} {R : Medium → Prop} (h : s.AllMedia R) {m : Medium}
    (hm : s.curMedium = some m) : R m := by
  obtain ⟨n, -, hn⟩ := State.curMedium_eq_some hm
  exact h n m hn

/-- A property every medium has, and the current one with its new track has, is one every medium keeps. -/
theorem State.AllMedia.setCurTrack {s : State} {R : Medium → Prop} {T : Track} {c : Bool} (h : s.AllMedia R)
    (hT : ∀ m t side, s.curMedium = some m → R { m.setTrack t side T with changed := c }) :
    (s.setCurTrack T c).AllMedia R := by
  rcases s.setCurTrack_cases T c with he | ⟨n, m, hn, hm, he⟩
  · rw [he]
    exact h
  · intro k m' hm'
    rw [he, State.drive_setDrive] at hm'
    split_ifs at hm' with hk
    · cases hm'
      exact hT m _ _ (by simp [State.curMedium, hn, hm])
    · exact h k m' hm'

/-- Of two replacements of the current track the second stays. -/
theorem State.setCurTrack_setCurTrack {s : State} {T₀ : Track} (h : s.curTrack = some T₀) (T T' : Track) (c c' : Bool) :
    (s.setCurTrack T c).setCurTrack T' c' = s.setCurTrack T' c' := by
  obtain ⟨n, m, hn, hm, -, hcur, -, -, hphys, -⟩ := State.setCurTrack_spec T c h
  have hfirst := State.setCurTrack_withTrack T c hn hm h
  have hmed : ((s.setCurTrack T c).drive n).medium = some { m with
      changed := c, tracks := m.tracks.set ((s.drive n).physTrack * m.sides + s.fdc.side.toNat) T } := by
    rw [hfirst, State.withTrack_medium]
  have hfdc : (s.setCurTrack T c).fdc = s.fdc := by rw [hfirst]; rfl
  rw [State.setCurTrack_withTrack T' c' (by rw [hfdc]; exact hn) hmed hcur, State.setCurTrack_withTrack T' c' hn hm h, hphys,
    hfdc, hfirst]
  simp [State.withTrack, State.drive]

/-! ### Writing a logical byte (R84, R90) -/

/-- The track with `v` at each of `k` raw positions from `p` on, in its circle. -/
def Track.fill (p : Nat) (v : Byte) (T : Track) : Nat → Track
  | 0 => T
  | k + 1 => { T with data := (Track.fill p v T k).data.write ((p + k) % T.len) v }

@[simp] theorem Track.fill_len (p : Nat) (v : Byte) (T : Track) (k : Nat) : (Track.fill p v T k).len = T.len := by
  cases k <;> rfl

@[simp] theorem Track.fill_index (p : Nat) (v : Byte) (T : Track) (k : Nat) :
    (Track.fill p v T k).index = T.index := by
  cases k <;> rfl

theorem Track.len_pos_of_bufferOk {cap : Nat} {T : Track} (h : T.bufferOk cap = true) : 0 < T.len := by
  simp only [Track.bufferOk, Bool.and_eq_true, decide_eq_true_eq] at h
  omega

theorem Track.wf_of_bufferOk {cap : Nat} {T : Track} (h : T.bufferOk cap = true) : T.data.wf = true := by
  simp only [Track.bufferOk, Bool.and_eq_true] at h
  exact h.1.2

theorem Track.fill_bufferOk {cap : Nat} {T : Track} (h : T.bufferOk cap = true) (p : Nat) (v : Byte) (k : Nat) :
    (Track.fill p v T k).bufferOk cap = true := by
  induction k with
  | zero => exact h
  | succ k ih =>
    have hw := Track.bufferOk_write ih (a := (p + k) % T.len)
      (by simpa using Nat.mod_lt _ (Track.len_pos_of_bufferOk h)) v
    simpa [Track.fill] using hw

/-- The filled positions read `v`, every other position as before. -/
theorem Track.read_fill {T : Track} {cap : Nat} (h : T.bufferOk cap = true) (p : Nat) (v : Byte) (k a : Nat) :
    (Track.fill p v T k).data.read a = if ∃ i, i < k ∧ a = (p + i) % T.len then v else T.data.read a := by
  induction k with
  | zero => simp [Track.fill]
  | succ k ih =>
    have hwf := Track.wf_of_bufferOk (Track.fill_bufferOk h p v k)
    simp only [Track.fill, Memory.read_write _ _ _ hwf, ih]
    by_cases hlast : (p + k) % T.len = a
    · rw [if_pos hlast, if_pos ⟨k, by omega, hlast.symm⟩]
    · have hiff : (∃ i, i < k + 1 ∧ a = (p + i) % T.len) ↔ ∃ i, i < k ∧ a = (p + i) % T.len := by
        refine ⟨fun ⟨i, hi, ha⟩ => ⟨i, ?_, ha⟩, fun ⟨i, hi, ha⟩ => ⟨i, by omega, ha⟩⟩
        have : i ≠ k := fun e => hlast (e ▸ ha.symm)
        omega
      simp only [hlast, if_false, hiff]

theorem State.memWriteRun_of_none {s : State} (h : s.curTrack = none) (p : Nat) (v : Byte) (k : Nat) :
    s.memWriteRun p v k = s := by
  induction k with
  | zero => rfl
  | succ k ih => simp [State.memWriteRun, ih, State.memWrite, h]

/-- A run of raw writes is one replacement of the current track. -/
theorem State.memWriteRun_succ {s : State} {T : Track} (h : s.curTrack = some T) (p : Nat) (v : Byte) (k : Nat) :
    s.memWriteRun p v (k + 1) = s.setCurTrack (Track.fill p v T (k + 1)) true := by
  induction k with
  | zero => simp [State.memWriteRun, State.memWrite, h, Track.fill]
  | succ k ih =>
    obtain ⟨-, -, -, -, -, hcur, -⟩ := State.setCurTrack_spec (Track.fill p v T (k + 1)) true h
    rw [State.memWriteRun, ih, State.memWrite, hcur]
    dsimp only
    rw [State.setCurTrack_setCurTrack h]
    simp [Track.fill]

theorem State.stride_pos (s : State) : 0 < s.stride := by
  unfold State.stride
  split_ifs <;> decide

theorem State.writeLogical_of_none {s : State} (h : s.curTrack = none) (v : Byte) :
    s.writeLogical v = s.withFdc { s.fdc with cursor := (s.fdc.cursor + s.stride) % s.trackLen } := by
  simp [State.writeLogical, State.memWriteRun_of_none h]

/-- Writing a logical byte fills the stride of the current track and moves the cursor (R90). -/
theorem State.writeLogical_of_some {s : State} {T : Track} (h : s.curTrack = some T) (v : Byte) :
    s.writeLogical v = (s.setCurTrack (Track.fill s.fdc.cursor v T s.stride) true).withFdc
      { s.fdc with cursor := (s.fdc.cursor + s.stride) % s.trackLen } := by
  obtain ⟨k, hk⟩ := Nat.exists_eq_add_of_lt s.stride_pos
  have hrun : s.memWriteRun s.fdc.cursor v s.stride = s.setCurTrack (Track.fill s.fdc.cursor v T s.stride) true := by
    rw [hk, Nat.zero_add]
    exact State.memWriteRun_succ h _ v k
  have hfdc : (s.setCurTrack (Track.fill s.fdc.cursor v T s.stride) true).fdc = s.fdc := by
    rw [State.setCurTrack_shape]
  simp [State.writeLogical, hrun, hfdc]

/-- Every raw byte of every medium after a logical byte is written, in a medium in form. -/
theorem State.trackByte_writeLogical {s : State} (hmedia : s.AllMedia fun m => m.formKept s.cfg = true) (v : Byte)
    (n : Fin 4) (t : Nat) (side : Bool) (pos : Nat) :
    (¬ s.underHead s.stride n t side pos → (s.writeLogical v).trackByte n t side pos = s.trackByte n t side pos) ∧
    (s.underHead s.stride n t side pos → s.trackByte n t side pos ≠ none →
      (s.writeLogical v).trackByte n t side pos = some v) := by
  cases hcur : s.curTrack with
  | none =>
    rw [State.writeLogical_of_none hcur]
    refine ⟨fun _ => rfl, fun ⟨hn, ht, hside, _⟩ hbyte => absurd ?_ hbyte⟩
    subst ht hside
    unfold State.curTrack at hcur
    rw [hn] at hcur
    unfold State.trackByte
    dsimp only at hcur
    split
    · rename_i m hm
      rw [hm] at hcur
      dsimp only at hcur
      rw [hcur]
    · rfl
  | some T =>
    obtain ⟨m, hm, hT⟩ := State.curTrack_mem hcur
    have hbuf := ((Medium.formKept_iff.1 (hmedia.curMedium hm)).2 T hT).1
    have hbytes : (s.writeLogical v).trackByte n t side pos =
        (s.setCurTrack (Track.fill s.fdc.cursor v T s.stride) true).trackByte n t side pos := by
      rw [State.writeLogical_of_some hcur]
      rfl
    have hold : s.fdc.selDrive = some n ∧ t = (s.drive n).physTrack ∧ side = s.fdc.side →
        s.trackByte n t side pos = if pos < T.len then some (T.data.read pos) else none := by
      rintro ⟨hn, rfl, rfl⟩
      obtain ⟨n', m', hn', hm', hT'⟩ := State.curTrack_eq_some hcur
      cases hn.symm.trans hn'
      simp [State.trackByte, hm', hT']
    have hlen : s.trackLen = T.len := by simp [State.trackLen, hcur]
    rw [hbytes, State.trackByte_setCurTrack _ _ hcur, Track.fill_len, Track.read_fill hbuf]
    unfold State.underHead
    rw [hlen]
    by_cases hhere : s.fdc.selDrive = some n ∧ t = (s.drive n).physTrack ∧ side = s.fdc.side
    · rw [if_pos hhere, hold hhere]
      by_cases hrun : ∃ i, i < s.stride ∧ pos = (s.fdc.cursor + i) % T.len
      · rw [if_pos hrun]
        exact ⟨fun hnot => absurd ⟨hhere.1, hhere.2.1, hhere.2.2, hrun⟩ hnot, fun _ hne => by simpa using hne⟩
      · rw [if_neg hrun]
        exact ⟨fun _ => rfl, fun hunder => absurd hunder.2.2.2 hrun⟩
    · rw [if_neg hhere]
      exact ⟨fun _ => rfl, fun hunder => absurd ⟨hunder.1, hunder.2.1, hunder.2.2.1⟩ hhere⟩

/-- Settles O28: the run of raw writes is one replacement of the current track by the filled one. -/
theorem logicalWrite : Obligations.LogicalWrite := by
  unfold Obligations.LogicalWrite
  intro v s hinv
  refine ⟨State.writeLogical_of_none (v := v), ?_, fun n t side pos => (State.trackByte_writeLogical hinv.media v n t side pos).1,
    fun n t side pos => (State.trackByte_writeLogical hinv.media v n t side pos).2⟩
  intro n m T hn hm hcur
  have hset := State.setCurTrack_withTrack (Track.fill s.fdc.cursor v T s.stride) true hn hm hcur
  obtain ⟨-, -, -, -, -, hcur', -⟩ := State.setCurTrack_spec (Track.fill s.fdc.cursor v T s.stride) true hcur
  have hfdc : (s.setCurTrack (Track.fill s.fdc.cursor v T s.stride) true).fdc = s.fdc := by rw [hset]; rfl
  refine ⟨Track.fill s.fdc.cursor v T s.stride, ?_, ?_, Track.fill_len .., Track.fill_index ..⟩
  · rw [State.writeLogical_of_some hcur, hset]
    rfl
  · rw [State.writeLogical_of_some hcur, ← hcur']
    simp only [State.curTrack, State.withFdc_fdc, hfdc]
    rfl

end Sys2Proof.Machine
end

section
/-! PROOFS. What a handler does to the state: a sequence of moves, each one shared operation; said once per handler. -/

namespace Sys2Proof.Machine

/-! ### What an update of the controller leaves alone -/

/-- What every operation but a select keeps of the controller: the drive, at most one error flag (R47), the new index within
the slots. -/
structure Fdc.Keeps (c : Config) (f g : Fdc) : Prop where
  selDrive : g.selDrive = f.selDrive
  oneError : f.errorCount ≤ 1 → g.errorCount ≤ 1
  newIndex : f.newIndex.length ≤ c.idamSlots → g.newIndex.length ≤ c.idamSlots

/-- What a handler keeps besides: the side, the density, the command in progress, and the named pulses. -/
structure Fdc.KeepsCommand (c : Config) (f g : Fdc) : Prop extends Fdc.Keeps c f g where
  side : g.side = f.side
  dd : g.dd = f.dd
  cmd : g.cmd = f.cmd
  cmdPulse : g.cmdPulse = f.cmdPulse
  indexPulse : g.indexPulse = f.indexPulse
  busy : f.busy = true → g.busy = true

/-- The updates most handlers make: the kept fields and the error flags are copied. -/
theorem Fdc.KeepsCommand.of_eq {c : Config} {f g : Fdc}
    (h : g = { g with
      selDrive := f.selDrive, side := f.side, dd := f.dd, cmd := f.cmd, cmdPulse := f.cmdPulse,
      indexPulse := f.indexPulse, busy := f.busy, newIndex := f.newIndex, seekErr := f.seekErr, crcErr := f.crcErr,
      lostData := f.lostData, wpErr := f.wpErr }) : f.KeepsCommand c g := by
  rw [h]
  exact ⟨⟨rfl, id, id⟩, rfl, rfl, rfl, rfl, rfl, id⟩

theorem Fdc.KeepsCommand.refl (c : Config) (f : Fdc) : f.KeepsCommand c f := .of_eq rfl

theorem Fdc.KeepsCommand.trans {c : Config} {f g h : Fdc} (h₁ : f.KeepsCommand c g) (h₂ : g.KeepsCommand c h) :
    f.KeepsCommand c h where
  selDrive := h₂.selDrive.trans h₁.selDrive
  oneError := h₂.oneError ∘ h₁.oneError
  newIndex := h₂.newIndex ∘ h₁.newIndex
  side := h₂.side.trans h₁.side
  dd := h₂.dd.trans h₁.dd
  cmd := h₂.cmd.trans h₁.cmd
  cmdPulse := h₂.cmdPulse.trans h₁.cmdPulse
  indexPulse := h₂.indexPulse.trans h₁.indexPulse
  busy := h₂.busy ∘ h₁.busy

/-- Reporting an error touches nothing but the error flags (R47). -/
theorem reports_shape (f : Fdc) (e : ErrorFlag) :
    reports f e = { f with
      seekErr := (reports f e).seekErr, crcErr := (reports f e).crcErr, lostData := (reports f e).lostData,
      wpErr := (reports f e).wpErr } := by
  unfold reports
  split_ifs
  · cases e <;> rfl
  · rfl

/-- The one-error rule (R47). -/
theorem reports_errorCount {f : Fdc} (e : ErrorFlag) (h : f.errorCount ≤ 1) : (reports f e).errorCount ≤ 1 := by
  unfold reports
  split_ifs with h0
  · cases e <;> simp only [Fdc.errorCount, Fdc.markError, Bool.toNat_true] at h0 ⊢ <;> omega
  · exact h

theorem reports_keeps (c : Config) (f : Fdc) (e : ErrorFlag) : f.KeepsCommand c (reports f e) := by
  have hcount := reports_errorCount (f := f) e
  rw [reports_shape] at hcount ⊢
  exact ⟨⟨rfl, hcount, id⟩, rfl, rfl, rfl, rfl, rfl, id⟩

/-- What every Prepare does first keeps the command, and leaves no error flag (R201, R230). -/
theorem Fdc.begin_keeps (c : Config) (f : Fdc) : f.KeepsCommand c f.begin :=
  ⟨⟨rfl, fun _ => by simp [Fdc.errorCount, Fdc.begin], id⟩, rfl, rfl, rfl, rfl, rfl, fun _ => rfl⟩

theorem Fdc.prepareTypeI_keeps (c : Config) (f : Fdc) : f.KeepsCommand c f.prepareTypeI := by
  unfold Fdc.prepareTypeI
  split <;> exact .of_eq rfl

/-! ### Moves -/

/-- One shared operation of the handlers. `wtCommit` only follows a byte that Write Track put, so its cursor is not 0. -/
inductive Move : State → State → Prop
  | fdc (s : State) (f : Fdc) (h : s.fdc.KeepsCommand s.cfg f) : Move s (s.withFdc f)
  | head (s : State) (dir : StepDir) : Move s (s.stepHead dir)
  | write (s : State) (v : Byte) : Move s (s.writeLogical v)
  | put (s : State) (v : Byte) : Move s (s.wtPut v)
  | commit (s : State) (hcmd : s.fdc.cmd = .writeTrack) (h : 0 < s.fdc.cursor) : Move s s.wtCommit

/-- A sequence of moves. -/
abbrev Moves : State → State → Prop := Relation.ReflTransGen Move

theorem Moves.fdc {s : State} {f : Fdc} (h : s.fdc.KeepsCommand s.cfg f) : Moves s (s.withFdc f) := .single (.fdc s f h)

/-- After a sequence of moves, an update of the controller that copies what a handler keeps. -/
theorem Moves.update {s u : State} {g : Fdc} (h : Moves s u)
    (hg : g = { g with
      selDrive := u.fdc.selDrive, side := u.fdc.side, dd := u.fdc.dd, cmd := u.fdc.cmd, cmdPulse := u.fdc.cmdPulse,
      indexPulse := u.fdc.indexPulse, busy := u.fdc.busy, newIndex := u.fdc.newIndex, seekErr := u.fdc.seekErr,
      crcErr := u.fdc.crcErr, lostData := u.fdc.lostData, wpErr := u.fdc.wpErr }) : Moves s (u.withFdc g) :=
  h.trans (Moves.fdc (.of_eq hg))

theorem Moves.setError {s u : State} (h : Moves s u) (e : ErrorFlag) : Moves s (u.setError e) := by
  rw [State.setError_eq]
  exact h.trans (Moves.fdc (reports_keeps _ _ e))

theorem Moves.noteLost {s u : State} (h : Moves s u) : Moves s u.noteLost := by
  unfold State.noteLost
  split
  · exact h.setError _
  · exact h

theorem Moves.raiseDrq {s u : State} (h : Moves s u) : Moves s u.raiseDrq := h.update rfl

theorem Moves.deliver {s u : State} (h : Moves s u) (v : Byte) : Moves s (u.deliver v) :=
  (h.noteLost.update rfl).raiseDrq

theorem Moves.afterRead {s u : State} (h : Moves s u) : Moves s u.afterRead := h.update rfl

theorem Moves.stepHead {s u : State} (h : Moves s u) (dir : StepDir) : Moves s (u.stepHead dir) := h.tail (.head u dir)

theorem Moves.writeLogical {s u : State} (h : Moves s u) (v : Byte) : Moves s (u.writeLogical v) := h.tail (.write u v)

theorem Moves.wtPut {s u : State} (h : Moves s u) (v : Byte) : Moves s (u.wtPut v) := h.tail (.put u v)

/-- Recording an ID mark keeps the new index within the slots (R290). -/
theorem Moves.recordIdam {s u : State} (h : Moves s u) (pos : Nat) (d : Bool) : Moves s (u.recordIdam pos d) := by
  unfold State.recordIdam
  split_ifs with hroom
  · refine h.trans (Moves.fdc ⟨⟨rfl, id, fun _ => ?_⟩, rfl, rfl, rfl, rfl, rfl, id⟩)
    simpa using hroom.2.2
  · exact h

/-- What a code of Write Track does (R290): a CRC preset, one byte put, the CRC, and maybe an ID mark recorded at the byte's
place. -/
theorem State.wtByte_inv (s : State) (c : Byte) : ∃ f v g d,
    f = { s.fdc with crc := f.crc, crcResetAllowed := f.crcResetAllowed } ∧
    g = { ((s.withFdc f).wtPut v).fdc with
      crc := g.crc, pendingCrcLo := g.pendingCrcLo, crcResetAllowed := g.crcResetAllowed } ∧
    (s.wtByte c = ((s.withFdc f).wtPut v).withFdc g ∨
      s.wtByte c = (((s.withFdc f).wtPut v).withFdc g).recordIdam s.fdc.cursor d) := by
  have hdd : s.fdc.ddCodeCrc c = { s.fdc with
      crc := (s.fdc.ddCodeCrc c).crc, crcResetAllowed := (s.fdc.ddCodeCrc c).crcResetAllowed } := by
    unfold Fdc.ddCodeCrc
    split_ifs <;> rfl
  have hsd : s.fdc.sdCodeCrc c = { s.fdc with
      crc := (s.fdc.sdCodeCrc c).crc, crcResetAllowed := (s.fdc.sdCodeCrc c).crcResetAllowed } := by
    unfold Fdc.sdCodeCrc
    split_ifs <;> rfl
  unfold State.wtByte State.wtPutCrc
  dsimp only
  split_ifs
  · exact ⟨s.fdc, _, _, false, rfl, rfl, .inl rfl⟩
  · exact ⟨_, _, _, true, hdd, rfl, .inr rfl⟩
  · exact ⟨_, _, _, true, hdd, rfl, .inl rfl⟩
  · exact ⟨_, _, _, false, hsd, rfl, .inr rfl⟩
  · exact ⟨_, _, _, false, hsd, rfl, .inl rfl⟩

theorem Moves.wtByte {s u : State} (h : Moves s u) (c : Byte) : Moves s (u.wtByte c) := by
  obtain ⟨f, v, g, d, hf, hg, he⟩ := u.wtByte_inv c
  have hput : Moves s (((u.withFdc f).wtPut v).withFdc g) :=
    ((h.update (by rw [hf])).wtPut v).update (by rw [hg])
  rcases he with he | he
  · rw [he]
    exact hput
  · rw [he]
    exact hput.recordIdam _ _

/-- Writing a byte moves the cursor on (R288). -/
theorem State.wtPut_cursor (s : State) (v : Byte) : (s.wtPut v).fdc.cursor = s.fdc.cursor + s.stride := by
  rw [State.wtPut_shape]

theorem State.recordIdam_cursor (s : State) (pos : Nat) (d : Bool) : (s.recordIdam pos d).fdc.cursor = s.fdc.cursor := by
  unfold State.recordIdam
  split <;> rfl

theorem State.wtPut_cursor_pos (s : State) (v : Byte) : 0 < (s.wtPut v).fdc.cursor := by
  have := s.stride_pos
  rw [State.wtPut_cursor]
  omega

theorem State.wtByte_cursor_pos (s : State) (c : Byte) : 0 < (s.wtByte c).fdc.cursor := by
  obtain ⟨f, v, g, d, -, hg, he⟩ := s.wtByte_inv c
  have hpos : 0 < (((s.withFdc f).wtPut v).withFdc g).fdc.cursor := by
    rw [State.withFdc_fdc, hg]
    exact State.wtPut_cursor_pos _ _
  rcases he with he | he
  · rw [he]
    exact hpos
  · rw [he, State.recordIdam_cursor]
    exact hpos

/-! ### The frame of a sequence of moves -/

/-- What every handler leaves alone: the clock, the lines, everything outside the controller and the drives; and of the
controller the selection and the command. -/
structure HandlerFrame (s u : State) : Prop where
  shape : u = { s with fdc := u.fdc, drives := u.drives }
  keeps : s.fdc.KeepsCommand s.cfg u.fdc

theorem HandlerFrame.refl (s : State) : HandlerFrame s s := ⟨rfl, .refl _ _⟩

theorem HandlerFrame.cfg {s u : State} (h : HandlerFrame s u) : u.cfg = s.cfg := by rw [h.shape]
theorem HandlerFrame.clk {s u : State} (h : HandlerFrame s u) : u.clk = s.clk := by rw [h.shape]
theorem HandlerFrame.fault {s u : State} (h : HandlerFrame s u) : u.fault = s.fault := by rw [h.shape]
theorem HandlerFrame.motorPulse {s u : State} (h : HandlerFrame s u) : u.motorPulse = s.motorPulse := by rw [h.shape]

theorem HandlerFrame.trans {s u w : State} (h₁ : HandlerFrame s u) (h₂ : HandlerFrame u w) : HandlerFrame s w where
  shape := by rw [h₂.shape, h₁.shape]
  keeps := h₁.keeps.trans (h₁.cfg ▸ h₂.keeps)

theorem Move.frame {s u : State} (h : Move s u) : HandlerFrame s u := by
  cases h with
  | fdc f h => exact ⟨rfl, h⟩
  | head dir =>
    rw [State.stepHead_eq]
    exact ⟨rfl, .refl _ _⟩
  | write v =>
    rw [State.writeLogical_shape]
    exact ⟨rfl, .of_eq rfl⟩
  | put v =>
    rw [State.wtPut_shape]
    exact ⟨rfl, .of_eq rfl⟩
  | commit =>
    rw [State.wtCommit_shape]
    exact ⟨rfl, .refl _ _⟩

theorem Moves.frame {s u : State} (h : Moves s u) : HandlerFrame s u := by
  induction h with
  | refl => exact .refl s
  | tail _ hmove ih => exact ih.trans hmove.frame

/-! ### The handlers (42_type1.md to 44_type3.md) -/

/-- The state at a handler's end. -/
def HandlerEnd.state : HandlerEnd → State
  | .goto _ _ s => s
  | .complete s => s
  | .fatal _ s => s

/-- A handler that makes only moves. -/
def HandlerEnd.MovesFrom (s : State) (e : HandlerEnd) : Prop := Moves s e.state

theorem onlyFor_moves {allowed : Bool} {h : State → HandlerEnd} {s : State} (hh : (h s).MovesFrom s) :
    (onlyFor allowed h s).MovesFrom s := by
  unfold onlyFor
  split_ifs
  · exact hh
  · exact .refl

section TypeI

theorem onPrepareTypeI_moves (s : State) : (onPrepareTypeI s).MovesFrom s := by
  have hbegin : s.fdc.KeepsCommand s.cfg s.fdc.beginTypeI := (Fdc.begin_keeps _ _).trans (.of_eq rfl)
  exact .fdc (hbegin.trans (Fdc.prepareTypeI_keeps _ _))

theorem onRestoreStep_moves (s : State) : (onRestoreStep s).MovesFrom s := by
  unfold onRestoreStep
  split_ifs
  · exact Moves.update .refl rfl
  · exact Moves.setError .refl _
  · exact Moves.stepHead (Moves.update .refl rfl) _

theorem onSeekStep_moves (s : State) : (onSeekStep s).MovesFrom s := by
  unfold onSeekStep
  dsimp only
  split_ifs
  · exact .refl
  · exact Moves.update (Moves.update .refl rfl) rfl
  · exact Moves.stepHead (Moves.update (Moves.update .refl rfl) rfl) _

theorem onStepStep_moves (s : State) : (onStepStep s).MovesFrom s := by
  unfold onStepStep
  dsimp only
  split
  · exact .refl
  · split
    · exact Moves.update .refl rfl
    · exact Moves.update (Moves.stepHead (Moves.update .refl rfl) _) rfl

theorem onTypeIStep_moves (s : State) : (onTypeIStep s).MovesFrom s := by
  unfold onTypeIStep
  split
  · exact onRestoreStep_moves s
  · exact onSeekStep_moves s
  · exact onStepStep_moves s
  · exact onStepStep_moves s
  · exact onStepStep_moves s
  · exact .refl

theorem onCheckVerify_moves (s : State) : (onCheckVerify s).MovesFrom s := by
  unfold onCheckVerify
  split_ifs <;> exact .refl

theorem onVerifyTrack_moves (s : State) : (onVerifyTrack s).MovesFrom s := by
  unfold onVerifyTrack
  split_ifs
  · exact .refl
  · exact .refl
  · exact Moves.update .refl rfl

end TypeI

section Search

theorem onPrepareTypeII_moves (s : State) : (onPrepareTypeII s).MovesFrom s := by
  have hbegin : s.fdc.KeepsCommand s.cfg s.fdc.beginTypeII := (Fdc.begin_keeps _ _).trans (.of_eq rfl)
  unfold onPrepareTypeII
  dsimp only
  split_ifs <;> exact .fdc hbegin

theorem onPrepare_moves (s : State) : (onPrepare s).MovesFrom s := by
  unfold onPrepare
  split
  · exact onPrepareTypeI_moves s
  · exact onPrepareTypeII_moves s
  · exact onPrepareTypeII_moves s
  · exact .refl

theorem onDelay_moves (s : State) : (onDelay s).MovesFrom s := by
  unfold onDelay
  split <;> exact .refl

theorem onCheckWriteProtect_moves (s : State) : (onCheckWriteProtect s).MovesFrom s := by
  unfold onCheckWriteProtect
  split
  · exact Moves.setError .refl _
  · split <;> exact .refl

theorem onSearchStart_moves (s : State) : (onSearchStart s).MovesFrom s :=
  Moves.update (Moves.update .refl rfl) rfl

theorem onSeekingIdam_moves (s : State) : (onSeekingIdam s).MovesFrom s := by
  unfold onSeekingIdam
  dsimp only
  split_ifs
  · exact Moves.setError .refl _
  · exact (Moves.afterRead .refl).update rfl
  · exact Moves.afterRead .refl

theorem Moves.readIdByte {s u : State} (h : Moves s u) : Moves s u.readIdByte := h.afterRead.update rfl

theorem idCompare_moves (s : State) : (idCompare s).MovesFrom s := by
  unfold idCompare
  split_ifs
  · exact .refl
  · exact Moves.update .refl rfl
  · dsimp only
    split <;> exact Moves.update .refl rfl

theorem onReadingAddressData_moves (s : State) : (onReadingAddressData s).MovesFrom s := by
  unfold onReadingAddressData
  dsimp only
  split_ifs
  · exact Moves.readIdByte .refl
  · exact Moves.readIdByte .refl
  · exact (Moves.readIdByte .refl).trans (idCompare_moves _)

theorem onReadAddressByte_moves (s : State) : (onReadAddressByte s).MovesFrom s := by
  have hbyte : Moves s (s.readIdByte.deliver s.logicalByte.1) := (Moves.readIdByte .refl).deliver _
  unfold onReadAddressByte endReadAddress
  dsimp only
  split_ifs
  · exact hbyte
  · exact hbyte.update rfl
  · exact (hbyte.update rfl).setError _

end Search

section Sectors

theorem onSeekingDam_moves (s : State) : (onSeekingDam s).MovesFrom s := by
  have hread : Moves s (s.afterRead.withFdc { s.afterRead.fdc with count := s.afterRead.fdc.count + 1 }) :=
    (Moves.afterRead .refl).update rfl
  unfold onSeekingDam
  dsimp only
  split_ifs
  · exact hread.update rfl
  · exact hread.setError _
  · exact hread

theorem onReadingData_moves (s : State) : (onReadingData s).MovesFrom s := by
  have hread := (((Moves.afterRead (s := s) .refl).update
    (g := { s.afterRead.fdc with crc := s.crcStep s.afterRead.fdc.crc s.logicalByte.1 }) rfl).deliver s.logicalByte.1)
  unfold onReadingData
  dsimp only
  split_ifs
  · exact hread.update rfl
  · exact (hread.update rfl).update rfl

theorem nextRecord_moves (s : State) : (nextRecord s).MovesFrom s := by
  unfold nextRecord
  split_ifs
  · exact Moves.update .refl rfl
  · exact .refl

theorem onReadCrc_moves (s : State) : (onReadCrc s).MovesFrom s := by
  have hread : Moves s (s.afterRead.withFdc { s.afterRead.fdc with
      crc := s.crcStep s.afterRead.fdc.crc s.logicalByte.1, count := s.afterRead.fdc.count + 1 }) :=
    (Moves.afterRead .refl).update rfl
  unfold onReadCrc
  dsimp only
  split_ifs
  · exact hread
  · exact hread.setError _
  · exact hread.trans (nextRecord_moves _)

theorem onWriteGap_moves (s : State) : (onWriteGap s).MovesFrom s := by
  have hread : Moves s (s.afterRead.withFdc { s.afterRead.fdc with count := s.afterRead.fdc.count + 1 }) :=
    (Moves.afterRead .refl).update rfl
  unfold onWriteGap
  dsimp only
  split_ifs
  · exact hread.raiseDrq
  · exact hread.raiseDrq.setError _
  · exact hread.raiseDrq.update rfl
  · exact hread
  · exact hread.setError _
  · exact hread.update rfl

theorem onWritingFiller_moves (s : State) : (onWritingFiller s).MovesFrom s := by
  unfold onWritingFiller
  dsimp only
  split_ifs
  · exact (Moves.writeLogical .refl _).update rfl
  · exact ((Moves.writeLogical .refl _).update rfl).update rfl

theorem onWritingDam_moves (s : State) : (onWritingDam s).MovesFrom s := by
  unfold onWritingDam
  split_ifs <;> exact (Moves.writeLogical .refl _).update rfl

theorem onWritingData_moves (s : State) : (onWritingData s).MovesFrom s := by
  unfold onWritingData
  dsimp only
  split_ifs
  · exact (((Moves.noteLost .refl).writeLogical _).update rfl).raiseDrq
  · exact (((Moves.noteLost .refl).writeLogical _).update rfl).update rfl

theorem onWriteCrc_moves (s : State) : (onWriteCrc s).MovesFrom s := by
  unfold onWriteCrc
  split_ifs
  · exact (Moves.writeLogical .refl _).update rfl
  · exact Moves.writeLogical .refl _

theorem onWriteTrailer_moves (s : State) : (onWriteTrailer s).MovesFrom s :=
  (Moves.writeLogical .refl _).trans (nextRecord_moves _)

end Sectors

section Tracks

theorem onSeekingIndexHole_moves (s : State) : (onSeekingIndexHole s).MovesFrom s := Moves.update .refl rfl

theorem onReadingTrack_moves (s : State) : (onReadingTrack s).MovesFrom s := by
  unfold onReadingTrack
  dsimp only
  split_ifs <;> exact ((Moves.afterRead .refl).deliver _).update rfl

theorem onWriteTrackDrq_moves (s : State) : (onWriteTrackDrq s).MovesFrom s := by
  unfold onWriteTrackDrq
  split_ifs
  · exact (Moves.raiseDrq .refl).update rfl
  · exact Moves.setError .refl _
  · exact .fdc ⟨⟨rfl, id, fun _ => Nat.zero_le _⟩, rfl, rfl, rfl, rfl, rfl, id⟩

theorem endWriteSlot_moves {s : State} (hcmd : s.fdc.cmd = .writeTrack) (h : 0 < s.fdc.cursor) (consumed : Bool) :
    (endWriteSlot s consumed).MovesFrom s := by
  have hslot : Moves s (s.withFdc { s.fdc with slot := s.fdc.slot + 1 }) := Moves.update .refl rfl
  unfold endWriteSlot
  dsimp only
  split_ifs
  · exact hslot.raiseDrq
  · exact hslot
  · exact hslot.tail (.commit _ hcmd h)

theorem onWritingTrack_moves {s : State} (hcmd : s.fdc.cmd = .writeTrack) : (onWritingTrack s).MovesFrom s := by
  unfold onWritingTrack
  split
  · rename_i lo _
    have hput : Moves s ((s.wtPut lo).withFdc { (s.wtPut lo).fdc with pendingCrcLo := none }) :=
      (Moves.wtPut .refl lo).update rfl
    exact hput.trans (endWriteSlot_moves (hput.frame.keeps.cmd.trans hcmd) (State.wtPut_cursor_pos s lo) false)
  · have hbyte : Moves s (s.noteLost.wtByte s.hostByte) := (Moves.noteLost .refl).wtByte _
    exact hbyte.trans (endWriteSlot_moves (hbyte.frame.keeps.cmd.trans hcmd) (State.wtByte_cursor_pos _ _) true)

end Tracks

/-- Every handler makes only moves (R148). -/
theorem runHandler_moves (s : State) : (runHandler s).MovesFrom s := by
  unfold runHandler
  cases s.fdc.op with
  | prepare => exact onPrepare_moves s
  | delay => exact onDelay_moves s
  | checkWriteProtect => exact onlyFor_moves (onCheckWriteProtect_moves s)
  | seekingIdam => exact onlyFor_moves (onSeekingIdam_moves s)
  | readingAddressData =>
    split_ifs
    · exact onReadAddressByte_moves s
    · exact onlyFor_moves (onReadingAddressData_moves s)
  | verifyTrack => exact onlyFor_moves (onVerifyTrack_moves s)
  | seekingDam => exact onlyFor_moves (onSeekingDam_moves s)
  | readingData => exact onlyFor_moves (onReadingData_moves s)
  | writingData => exact onlyFor_moves (onWritingData_moves s)
  | readCrc => exact onlyFor_moves (onReadCrc_moves s)
  | writeCrc => exact onlyFor_moves (onWriteCrc_moves s)
  | nmi => exact onlyFor_moves .refl
  | opDone => exact .refl
  | typeIStep => exact onTypeIStep_moves s
  | checkVerify => exact onlyFor_moves (onCheckVerify_moves s)
  | verifySettle => exact onlyFor_moves .refl
  | searchStart => exact onlyFor_moves (onSearchStart_moves s)
  | writeGap => exact onlyFor_moves (onWriteGap_moves s)
  | writingFiller => exact onlyFor_moves (onWritingFiller_moves s)
  | writingDam => exact onlyFor_moves (onWritingDam_moves s)
  | writeTrailer => exact onlyFor_moves (onWriteTrailer_moves s)
  | writeTrackDrq => exact onlyFor_moves (onWriteTrackDrq_moves s)
  | seekingIndexHole => exact onlyFor_moves (onSeekingIndexHole_moves s)
  | readingTrack => exact onlyFor_moves (onReadingTrack_moves s)
  | writingTrack =>
    dsimp only
    unfold onlyFor
    split_ifs with hcmd
    · exact onWritingTrack_moves (by simpa using hcmd)
    · exact .refl

end Sys2Proof.Machine
end

section
/-! PROOFS. The acts of the block outside its handlers: the pulse set, the abort of a Write Track, the lines; what each keeps,
and that every operation but a select and the passing of time is a sequence of acts. -/

namespace Sys2Proof.Machine

/-! ### The pulse set (R30 to R33, R153, R154) -/

/-- The clock's part of the invariant, the future of its pulses apart. -/
structure Clock.Sound (c : Config) (k : Clock) : Prop where
  aligned : k.ticks % c.ticksPerTstate = 0
  bounded : k.ticks < 2 ^ 64
  periods : ∀ e ∈ k.pulses, e.periodic = true → 0 < e.period
  handles : ∀ e ∈ k.pulses, e.handle < k.nextHandle
  seqs : ∀ e ∈ k.pulses, e.seq < k.nextSeq

/-- Every live pulse is in the future (R153 (a)). -/
def Clock.Future (k : Clock) : Prop := ∀ e ∈ k.pulses, e.expired = false → k.ticks < e.trigger

theorem Clock.take_pulses (k : Clock) (e : Pulse) :
    (k.take e).pulses = k.pulses.erase e ++
      if e.periodic then [{ e with trigger := e.trigger + e.period, seq := k.nextSeq }] else [] := by
  unfold Clock.take
  split_ifs <;> simp

@[simp] theorem Clock.take_ticks (k : Clock) (e : Pulse) : (k.take e).ticks = k.ticks := by
  unfold Clock.take
  split <;> rfl

@[simp] theorem Clock.take_nextHandle (k : Clock) (e : Pulse) : (k.take e).nextHandle = k.nextHandle := by
  unfold Clock.take
  split <;> rfl

/-- An entry after `e` fired is an old one, or `e` armed again one period later. -/
theorem Clock.mem_take {k : Clock} {e x : Pulse} (h : x ∈ (k.take e).pulses) :
    x ∈ k.pulses ∨ e.periodic = true ∧ x = { e with trigger := e.trigger + e.period, seq := k.nextSeq } := by
  rw [Clock.take_pulses, List.mem_append] at h
  rcases h with h | h
  · exact .inl (List.mem_of_mem_erase h)
  · split_ifs at h with hp
    · exact .inr ⟨hp, by simpa using h⟩
    · cases h

theorem Clock.Sound.takeHandle {s : State} {c : Config} (h : s.clk.Sound c) : s.takeHandle.clk.Sound c :=
  { h with handles := fun e he => Nat.lt_succ_of_lt (h.handles e he) }

theorem Clock.Sound.insert {s : State} {c : Config} (h : s.clk.Sound c) {handle delay period : Nat} {cb : Callback}
    {periodic : Bool} (hh : handle < s.clk.nextHandle) (hp : periodic = true → 0 < period) :
    (s.insertPulse handle cb delay periodic period).clk.Sound c where
  aligned := h.aligned
  bounded := h.bounded
  periods := by
    simp only [State.insertPulse_clk, List.forall_mem_append, List.forall_mem_singleton]
    exact ⟨h.periods, hp⟩
  handles := by
    simp only [State.insertPulse_clk, List.forall_mem_append, List.forall_mem_singleton]
    exact ⟨h.handles, hh⟩
  seqs := by
    simp only [State.insertPulse_clk, List.forall_mem_append, List.forall_mem_singleton]
    exact ⟨fun e he => Nat.lt_succ_of_lt (h.seqs e he), Nat.lt_succ_self _⟩

/-- An entry after an expiry is an old one, but for its mark. -/
theorem State.mem_expirePulse {s : State} {h : Nat} {x : Pulse} (hx : x ∈ (s.expirePulse h).clk.pulses) :
    ∃ e ∈ s.clk.pulses, x = { e with expired := x.expired } ∧ (x.expired = false → x = e ∧ e.handle ≠ h) := by
  rw [State.expirePulse_clk, List.mem_map] at hx
  obtain ⟨e, he, rfl⟩ := hx
  refine ⟨e, he, ?_, ?_⟩ <;> split_ifs with hh <;> simp [hh]

theorem Clock.Sound.expire {s : State} {c : Config} (h : s.clk.Sound c) (n : Nat) : (s.expirePulse n).clk.Sound c where
  aligned := h.aligned
  bounded := h.bounded
  periods x hx := by
    obtain ⟨e, he, hxe, -⟩ := State.mem_expirePulse hx
    rw [hxe]
    exact h.periods e he
  handles x hx := by
    obtain ⟨e, he, hxe, -⟩ := State.mem_expirePulse hx
    rw [hxe]
    exact h.handles e he
  seqs x hx := by
    obtain ⟨e, he, hxe, -⟩ := State.mem_expirePulse hx
    rw [hxe]
    exact h.seqs e he

theorem Clock.Sound.drop {k : Clock} {c : Config} (h : k.Sound c) : k.dropExpired.Sound c where
  aligned := h.aligned
  bounded := h.bounded
  periods e he := h.periods e (List.mem_of_mem_filter he)
  handles e he := h.handles e (List.mem_of_mem_filter he)
  seqs e he := h.seqs e (List.mem_of_mem_filter he)

theorem Clock.Sound.take {k : Clock} {c : Config} (h : k.Sound c) {e : Pulse} (he : e ∈ k.pulses) :
    (k.take e).Sound c where
  aligned := by simpa using h.aligned
  bounded := by simpa using h.bounded
  periods x hx := by
    rcases Clock.mem_take hx with hx | ⟨-, rfl⟩
    · exact h.periods x hx
    · exact h.periods e he
  handles x hx := by
    rw [Clock.take_nextHandle]
    rcases Clock.mem_take hx with hx | ⟨-, rfl⟩
    · exact h.handles x hx
    · exact h.handles e he
  seqs x hx := by
    rcases Clock.mem_take hx with hx | ⟨hp, rfl⟩
    · have hseq := h.seqs x hx
      unfold Clock.take
      split_ifs
      · exact Nat.lt_succ_of_lt hseq
      · exact hseq
    · simp [Clock.take, hp]

theorem Clock.Future.insert {s : State} (h : s.clk.Future) {handle delay period : Nat} {cb : Callback}
    {periodic : Bool} (hd : 0 < delay) : (s.insertPulse handle cb delay periodic period).clk.Future := by
  simp only [Clock.Future, State.insertPulse_clk, List.forall_mem_append, List.forall_mem_singleton]
  exact ⟨h, fun _ => by omega⟩

theorem Clock.Future.expire {s : State} (h : s.clk.Future) (n : Nat) : (s.expirePulse n).clk.Future := by
  intro x hx hlive
  obtain ⟨e, he, -, hxe⟩ := State.mem_expirePulse hx
  obtain ⟨rfl, -⟩ := hxe hlive
  exact h x he hlive

theorem Clock.Future.drop {k : Clock} (h : k.Future) : k.dropExpired.Future := fun e he =>
  h e (List.mem_of_mem_filter he)

theorem Clock.Future.take {k : Clock} (h : k.Future) {e : Pulse} (he : e ∈ k.pulses) : (k.take e).Future := by
  intro x hx hlive
  rw [Clock.take_ticks]
  rcases Clock.mem_take hx with hx | ⟨-, rfl⟩
  · exact h x hx hlive
  · exact Nat.lt_add_right _ (h e he hlive)

/-! ### The work left to a Dispatch (R145) -/

/-- The firings one entry can still have by tick `t`, at most. -/
def Pulse.load (t : Nat) (e : Pulse) : Nat := t + 1 - e.trigger

theorem Clock.work_eq (k : Clock) : k.work = (k.pulses.map (Pulse.load k.ticks)).sum := rfl

/-- Entries beyond the tick add no work. -/
theorem Clock.work_insert {s : State} {handle delay period : Nat} {cb : Callback} {periodic : Bool} (hd : 0 < delay) :
    (s.insertPulse handle cb delay periodic period).clk.work = s.clk.work := by
  have hzero : s.clk.ticks + 1 - (s.clk.ticks + delay) = 0 := by omega
  simp [Clock.work, hzero]

theorem Clock.work_expire (s : State) (n : Nat) : (s.expirePulse n).clk.work = s.clk.work := by
  have hload : ∀ e : Pulse, Pulse.load s.clk.ticks (if e.handle = n then { e with expired := true } else e) =
      Pulse.load s.clk.ticks e := by
    intro e
    split <;> rfl
  simp only [Clock.work_eq, State.expirePulse_clk, List.map_map]
  exact congrArg List.sum (List.map_congr_left fun e _ => hload e)

theorem Clock.work_drop (k : Clock) : k.dropExpired.work ≤ k.work :=
  (List.filter_sublist.map _).sum_le_sum fun _ _ => Nat.zero_le _

/-- Firing a due entry uses up some work; arming it again leaves less. -/
theorem Clock.work_take {k : Clock} {e : Pulse} (he : e ∈ k.pulses) (hp : e.periodic = true → 0 < e.period) :
    (k.take e).work ≤ k.work ∧ (e.trigger ≤ k.ticks → (k.take e).work < k.work) := by
  have hsum : k.work = Pulse.load k.ticks e + ((k.pulses.erase e).map (Pulse.load k.ticks)).sum := by
    rw [Clock.work_eq, ← List.sum_cons, ← List.map_cons]
    exact ((List.perm_cons_erase he).map _).sum_eq
  rw [Clock.work_eq, Clock.take_pulses, Clock.take_ticks, List.map_append, List.sum_append, hsum]
  split_ifs with hper
  · have := hp hper
    simp only [List.map_singleton, List.sum_singleton, Pulse.load]
    constructor <;> intros <;> omega
  · simp only [List.map_nil, List.sum_nil, Pulse.load]
    constructor <;> intros <;> omega

end Sys2Proof.Machine
end

section
/-! PROOFS. The acts of the block: the handlers' moves, the pulse set, the abort of a Write Track, the lines. Every operation
but a select and the passing of time is a sequence of acts, and every act keeps the invariant and the drives that are not
selected. -/

namespace Sys2Proof.Machine

/-! ### The drives in form (R65, R68, R69) -/

/-- The drives' part of the invariant: every head within the drive, every medium in form. -/
structure State.Form (s : State) : Prop where
  heads : ∀ n, (s.drive n).physTrack ≤ s.cfg.maxTrack
  media : s.AllMedia fun m => m.formKept s.cfg = true

/-- The current track of media in form. -/
theorem State.Form.curTrack {s : State} (h : s.Form) {T : Track} (hT : s.curTrack = some T) :
    T.bufferOk s.capacity = true ∧ T.index.length ≤ s.cfg.idamSlots := by
  obtain ⟨m, hm, hmem⟩ := State.curTrack_mem hT
  rw [State.capacity_of_curMedium hm]
  exact (Medium.formKept_iff.1 (h.media.curMedium hm)).2 T hmem

theorem State.Form.setCurTrack {s : State} (h : s.Form) {T : Track} {c : Bool} (hbuf : T.bufferOk s.capacity = true)
    (hidx : T.index.length ≤ s.cfg.idamSlots) : (s.setCurTrack T c).Form := by
  have hcfg : (s.setCurTrack T c).cfg = s.cfg := by rw [State.setCurTrack_shape]
  constructor
  · intro n
    rw [State.setCurTrack_physTrack, hcfg]
    exact h.heads n
  · rw [hcfg]
    refine h.media.setCurTrack fun m t side hm => ?_
    exact Medium.formKept_setTrack (h.media.curMedium hm) (State.capacity_of_curMedium hm ▸ hbuf) hidx

theorem clampStep_le (maxTrack p : Nat) (dir : StepDir) : clampStep maxTrack p dir ≤ maxTrack := by
  cases dir <;> exact Nat.min_le_right _ _

/-- Stepping moves the selected drive's head alone, and changes no medium (R200). -/
theorem State.stepHead_drive (s : State) (dir : StepDir) (k : Fin 4) :
    (s.stepHead dir).drive k = if s.fdc.selDrive = some k then
      { (s.drive k) with physTrack := clampStep s.cfg.maxTrack (s.drive k).physTrack dir } else s.drive k := by
  unfold State.stepHead
  cases hn : s.fdc.selDrive with
  | none => simp
  | some n =>
    simp only [State.drive_setDrive, Option.some.injEq]
    split_ifs with hk
    · rw [hk]
    · rfl

theorem State.Form.stepHead {s : State} (h : s.Form) (dir : StepDir) : (s.stepHead dir).Form := by
  have hcfg : (s.stepHead dir).cfg = s.cfg := by rw [State.stepHead_eq]
  constructor
  · intro k
    rw [State.stepHead_drive, hcfg]
    split_ifs
    · exact clampStep_le _ _ _
    · exact h.heads k
  · intro k m hm
    rw [hcfg]
    refine h.media k m ?_
    rw [State.stepHead_drive] at hm
    split_ifs at hm <;> exact hm

theorem State.Form.writeLogical {s : State} (h : s.Form) (v : Byte) : (s.writeLogical v).Form := by
  cases hT : s.curTrack with
  | none =>
    rw [State.writeLogical_of_none hT]
    exact ⟨h.heads, h.media⟩
  | some T =>
    obtain ⟨hbuf, hidx⟩ := h.curTrack hT
    have hset : (s.setCurTrack (Track.fill s.fdc.cursor v T s.stride) true).Form :=
      h.setCurTrack (Track.fill_bufferOk hbuf _ _ _) (by simpa using hidx)
    rw [State.writeLogical_of_some hT]
    exact ⟨hset.heads, hset.media⟩

/-- A run of Write Track's raw bytes keeps a buffer's form and its index (R288). -/
theorem putRun_bufferOk {cap p : Nat} {v : Byte} {T : Track} (h : T.bufferOk cap = true) (k : Nat) :
    (putRun cap p v T k).bufferOk cap = true ∧ (putRun cap p v T k).index = T.index := by
  induction k with
  | zero => exact ⟨h, rfl⟩
  | succ k ih =>
    obtain ⟨hbuf, hidx⟩ := putRaw_bufferOk (p := p + k) (v := v) ih.1
    exact ⟨hbuf, hidx.trans ih.2⟩

theorem State.wtPut_of_none {s : State} (h : s.curTrack = none) (v : Byte) :
    s.wtPut v = s.withFdc { s.fdc with
      cursor := s.fdc.cursor + s.stride, recent := shiftRecent s.fdc.recent v } := by
  simp [State.wtPut, h]

/-- `wtPut` replaces the current track by the one with its raw bytes put (R288). -/
theorem State.wtPut_of_some {s : State} {T : Track} (h : s.curTrack = some T) (v : Byte) :
    s.wtPut v = (s.setCurTrack (putRun s.capacity s.fdc.cursor v T s.stride)
      (s.curChanged || decide (s.fdc.cursor < s.capacity))).withFdc { s.fdc with
        cursor := s.fdc.cursor + s.stride, recent := shiftRecent s.fdc.recent v } := by
  unfold State.wtPut
  rw [h]
  dsimp only
  rw [State.setCurTrack_shape]

theorem State.Form.wtPut {s : State} (h : s.Form) (v : Byte) : (s.wtPut v).Form := by
  cases hT : s.curTrack with
  | none =>
    rw [State.wtPut_of_none hT]
    exact ⟨h.heads, h.media⟩
  | some T =>
    obtain ⟨hbuf, hidx⟩ := h.curTrack hT
    obtain ⟨hbuf', hidx'⟩ := putRun_bufferOk (p := s.fdc.cursor) (v := v) hbuf s.stride
    have hset := h.setCurTrack (c := s.curChanged || decide (s.fdc.cursor < s.capacity)) hbuf' (by rw [hidx']; exact hidx)
    rw [State.wtPut_of_some hT]
    exact ⟨hset.heads, hset.media⟩

/-- A buffer cut to a positive length keeps its form (R292). -/
theorem Track.bufferOk_below {cap n : Nat} {T : Track} (h : T.bufferOk cap = true) (hn : 0 < n) (hle : n ≤ T.len)
    (index : List IdamEntry) : Track.bufferOk cap { len := n, data := T.data.below n, index := index } = true := by
  simp only [Track.bufferOk, Bool.and_eq_true, decide_eq_true_eq] at h ⊢
  exact ⟨⟨⟨by omega, by omega⟩, Memory.below_wf n h.1.2⟩, Memory.below_all _ n⟩

theorem State.Form.wtCommit {s : State} (h : s.Form) (hcursor : 0 < s.fdc.cursor)
    (hidx : s.fdc.newIndex.length ≤ s.cfg.idamSlots) : s.wtCommit.Form := by
  unfold State.wtCommit
  split
  · rename_i T hT
    obtain ⟨hbuf, -⟩ := h.curTrack hT
    have hlen := Track.len_pos_of_bufferOk hbuf
    have hcap : T.len ≤ s.capacity := by
      simp only [Track.bufferOk, Bool.and_eq_true, decide_eq_true_eq] at hbuf
      exact hbuf.1.1.2
    exact h.setCurTrack (Track.bufferOk_below hbuf (by omega) (Nat.min_le_right _ _) _) hidx
  · exact h

theorem State.Form.wtAbort {s : State} (h : s.Form) : s.wtAbort.Form := by
  unfold State.wtAbort
  split
  · rename_i T hT
    exact h.setCurTrack (h.curTrack hT).1 (List.length_take_le _ _)
  · exact h

/-! ### Acts -/

/-- The updates most operations make of the controller: the drive, the new index and the error flags are copied. -/
theorem Fdc.Keeps.of_eq {c : Config} {f g : Fdc}
    (h : g = { g with
      selDrive := f.selDrive, newIndex := f.newIndex, seekErr := f.seekErr, crcErr := f.crcErr, lostData := f.lostData,
      wpErr := f.wpErr }) : f.Keeps c g := by
  rw [h]
  exact ⟨rfl, id, id⟩

/-- One shared operation of the block, but a select and the passing of time. -/
inductive Act : State → State → Prop
  | move {s u : State} (h : Move s u) : Act s u
  | fdc {s : State} {f : Fdc} (h : s.fdc.Keeps s.cfg f) : Act s (s.withFdc f)
  | abort (s : State) : Act s s.wtAbort
  | takeHandle (s : State) : Act s s.takeHandle
  | insert {s : State} {handle delay period : Nat} (cb : Callback) {periodic : Bool} (hh : handle < s.clk.nextHandle)
      (hd : 0 < delay) (hp : periodic = true → 0 < period) : Act s (s.insertPulse handle cb delay periodic period)
  | expire (s : State) (handle : Nat) : Act s (s.expirePulse handle)
  | drop (s : State) : Act s { s with clk := s.clk.dropExpired }
  | take {s : State} {e : Pulse} (he : e ∈ s.clk.pulses) : Act s { s with clk := s.clk.take e }
  | lines {s u : State} (hcfg : u.cfg = s.cfg) (hclk : u.clk = s.clk) (hfdc : u.fdc = s.fdc) (hdrives : u.drives = s.drives) :
      Act s u

/-- A sequence of acts. -/
abbrev Acts : State → State → Prop := Relation.ReflTransGen Act

theorem Moves.acts {s u : State} (h : Moves s u) : Acts s u := by
  induction h with
  | refl => exact .refl
  | tail _ hmove ih => exact ih.tail (.move hmove)

theorem Acts.act {s u w : State} (h : Acts s u) (ha : Act u w) : Acts s w := h.tail ha

theorem Acts.withFdc {s u : State} (h : Acts s u) {f : Fdc} (hf : u.fdc.Keeps u.cfg f) : Acts s (u.withFdc f) :=
  h.tail (.fdc hf)

/-- After a sequence of acts, an update of the controller that copies what every operation keeps. -/
theorem Acts.update {s u : State} {g : Fdc} (h : Acts s u)
    (hg : g = { g with
      selDrive := u.fdc.selDrive, newIndex := u.fdc.newIndex, seekErr := u.fdc.seekErr, crcErr := u.fdc.crcErr,
      lostData := u.fdc.lostData, wpErr := u.fdc.wpErr }) : Acts s (u.withFdc g) :=
  h.withFdc (.of_eq hg)

theorem Acts.lines {s u w : State} (h : Acts s u) (hcfg : w.cfg = u.cfg) (hclk : w.clk = u.clk) (hfdc : w.fdc = u.fdc)
    (hdrives : w.drives = u.drives) : Acts s w := h.tail (.lines hcfg hclk hfdc hdrives)

theorem Acts.raiseFatal {s u : State} (h : Acts s u) (r : FaultReason) : Acts s (u.raiseFatal r) :=
  h.lines rfl rfl rfl rfl

theorem Acts.takeHandle {s u : State} (h : Acts s u) : Acts s u.takeHandle := h.tail (.takeHandle u)

theorem Acts.expireOpt {s u : State} (h : Acts s u) (o : Option Nat) : Acts s (u.expireOpt o) := by
  cases o with
  | none => exact h
  | some handle => exact h.tail (.expire u handle)

/-- A waiting transition registers one entry ahead (R147). -/
theorem Acts.gotoAfter {s u : State} (h : Acts s u) {d : Nat} (hd : 0 < d) : Acts s (u.gotoAfter d) :=
  (h.takeHandle.act (.insert (periodic := false) (period := 0) .fdcStep (Nat.lt_succ_self u.clk.nextHandle) hd
    fun hp => absurd hp Bool.false_ne_true)).update rfl

theorem fdcStepEnd_acts (s : State) : Acts s (fdcStepEnd s).state := by
  have hforget : Acts s (s.withFdc { s.fdc with cmdPulse := none }) := Acts.update .refl rfl
  unfold fdcStepEnd
  dsimp only
  split_ifs
  · exact hforget.trans (Moves.acts (runHandler_moves _))
  · exact hforget

theorem gotoNow_acts (s : State) : Acts s (gotoNow s).state := (Acts.takeHandle .refl).trans (fdcStepEnd_acts _)

/-- Carrying an ending out, with its zero-delay chain (R147). -/
theorem finish_acts (fuel : Nat) : ∀ e : HandlerEnd, Acts e.state (finish fuel e) := by
  have hop : ∀ (s : State) (S : OpStatus), Acts s (s.withFdc { s.fdc with op := S }) := fun _ _ => Acts.update .refl rfl
  induction fuel with
  | zero =>
    intro e
    cases e with
    | goto S d s =>
      unfold finish
      split_ifs with hd
      · exact (hop s S).raiseFatal _
      · exact (hop s S).gotoAfter (Nat.pos_of_ne_zero hd)
    | complete s => exact Acts.update .refl rfl
    | fatal r s => exact Acts.raiseFatal .refl r
  | succ fuel ih =>
    intro e
    cases e with
    | goto S d s =>
      unfold finish
      split_ifs with hd
      · exact ((hop s S).trans (gotoNow_acts _)).trans (ih _)
      · exact (hop s S).gotoAfter (Nat.pos_of_ne_zero hd)
    | complete s => exact Acts.update .refl rfl
    | fatal r s => exact Acts.raiseFatal .refl r

theorem Acts.run {s : State} {e : HandlerEnd} (h : Acts s e.state) : Acts s e.run := h.trans (finish_acts _ e)

theorem Acts.fdcStep {s u : State} (h : Acts s u) : Acts s u.fdcStep := Acts.run (h.trans (fdcStepEnd_acts u))

theorem Acts.latchIntrq {s u : State} (h : Acts s u) : Acts s u.latchIntrq := h.update rfl

theorem Acts.readyEdge {s u : State} (h : Acts s u) : Acts s u.readyEdge := by
  unfold State.readyEdge
  dsimp only
  split_ifs
  · exact h.latchIntrq.lines rfl rfl rfl rfl
  · exact h.lines rfl rfl rfl rfl

theorem Acts.motorOffCb {s u : State} (h : Acts s u) : Acts s u.motorOffCb :=
  Acts.readyEdge (u := { u with motorPulse := none, motorOn := false, motorIrq := true }) (h.lines rfl rfl rfl rfl)

theorem Acts.invoke {s u : State} (h : Acts s u) (cb : Callback) : Acts s (u.invoke cb) := by
  cases cb with
  | fdcStep => exact h.fdcStep
  | motorOff => exact h.motorOffCb
  | indexIrq => exact h.latchIntrq
  | external => exact h

theorem Acts.registerPulse {s u : State} (h : Acts s u) (cb : Callback) (delay : Nat) (periodic : Bool) (period : Nat) :
    Acts s (u.registerPulse cb delay periodic period) := by
  unfold State.registerPulse
  dsimp only
  split_ifs with hperiod hdelay hper
  · exact h.takeHandle.raiseFatal _
  · exact h.takeHandle.raiseFatal _
  · exact h.takeHandle.invoke cb
  · exact h.takeHandle.tail (.insert cb (Nat.lt_succ_self _) (Nat.pos_of_ne_zero hdelay)
      fun hp => Nat.pos_of_ne_zero fun h0 => hperiod ⟨hp, h0⟩)

/-- The loop of Dispatch (R145). -/
theorem dispatchLoop_acts (fuel : Nat) : ∀ s : State, Acts s (dispatchLoop fuel s) := by
  induction fuel with
  | zero =>
    intro s
    have hdrop : Acts s { s with clk := s.clk.dropExpired } := .single (.drop s)
    unfold dispatchLoop
    dsimp only
    split_ifs
    · exact hdrop
    · exact hdrop.raiseFatal _
  | succ fuel ih =>
    intro s
    have hdrop : Acts s { s with clk := s.clk.dropExpired } := .single (.drop s)
    unfold dispatchLoop
    dsimp only
    split
    · exact hdrop
    · rename_i e he
      have hfire := Acts.invoke (hdrop.act (.take (Clock.nextDue_eq_some he).1)) e.cb
      split_ifs
      · exact hfire
      · exact hfire.trans (ih _)

/-! ### The ports (R171 to R180) -/

theorem Acts.cancelForceArms {s u : State} (h : Acts s u) : Acts s u.cancelForceArms := (h.expireOpt _).update rfl

theorem Acts.acceptCommand {s u : State} (h : Acts s u) (v : Byte) : Acts s (u.acceptCommand v) :=
  Acts.update (Acts.cancelForceArms (h.update rfl)) rfl

theorem Acts.terminate {s u : State} (h : Acts s u) (prevCmd : CmdKind) : Acts s (u.terminate prevCmd) := by
  unfold State.terminate
  dsimp only
  split_ifs
  · exact ((h.expireOpt _).act (.abort _)).update rfl
  · exact (h.expireOpt _).update rfl

theorem Acts.armIndex {s u : State} (h : Acts s u) : Acts s u.armIndex := (h.registerPulse _ _ _ _).update rfl

theorem Acts.forceInterrupt {s u : State} (h : Acts s u) (prevCmd : CmdKind) : Acts s (u.forceInterrupt prevCmd) := by
  unfold State.forceInterrupt
  dsimp only
  have hbusy : Acts s (if u.fdc.busy then u.terminate prevCmd else u.withFdc { u.fdc with statusMode := .typeI }) := by
    split_ifs
    · exact h.terminate _
    · exact h.update rfl
  have hlatch : ∀ (b : Bool) (w : State), Acts s w → Acts s (if b then w.latchIntrq else w) := by
    intro b w hw
    split_ifs
    · exact hw.latchIntrq
    · exact hw
  have harm : ∀ (b : Bool) (w : State), Acts s w → Acts s (if b then w.armIndex else w) := by
    intro b w hw
    split_ifs
    · exact hw.armIndex
    · exact hw
  exact (Acts.update (harm _ _ (hlatch _ _ hbusy)) rfl).lines rfl rfl rfl rfl

theorem Acts.startCommand {s u : State} (h : Acts s u) (k prevCmd : CmdKind) : Acts s (u.startCommand k prevCmd) := by
  have hop : Acts s (u.withFdc { u.fdc with op := .prepare }) := h.update rfl
  unfold State.startCommand
  split
  · exact Acts.run (hop.trans (Moves.acts (onPrepareTypeI_moves _)))
  · exact Acts.run (hop.trans (Moves.acts (onPrepareTypeII_moves _)))
  · exact Acts.run (hop.trans (Moves.acts (onPrepareTypeII_moves _)))
  · exact h.forceInterrupt prevCmd

theorem Acts.writeCommand {s u : State} (h : Acts s u) (v : Byte) : Acts s (u.writeCommand v) := by
  unfold State.writeCommand
  split_ifs
  · exact h
  · exact (h.acceptCommand v).startCommand _ _

theorem Acts.retriggerMotor {s u : State} (h : Acts s u) : Acts s u.retriggerMotor := by
  have hmotor : Acts s { u with motorOn := true } := h.lines rfl rfl rfl rfl
  exact ((hmotor.expireOpt u.motorPulse).registerPulse .motorOff (usToTicks u.cfg u.cfg.motorTimeoutUs) false 0).lines
    rfl rfl rfl rfl

/-- A select is the new selection and acts after it (R179, R452). -/
theorem State.select_acts (s : State) (f : Fdc) (driveBit : Bool) : Acts (s.withFdc f) (s.select f driveBit) := by
  have hredirected : Acts (s.withFdc f) ((s.withFdc f).redirected s.fdc) := by
    rw [State.redirected_eq]
    exact Acts.update .refl rfl
  unfold State.select
  dsimp only
  split_ifs
  · exact hredirected.retriggerMotor.readyEdge
  · exact hredirected.readyEdge

end Sys2Proof.Machine
end

section
/-! PROOFS. The form of what comes into a drive from outside: a loaded disk image and a re-encoded track (R330, R334, R366). -/

namespace Sys2Proof.Machine

/-! ### Index order (R69) -/

theorem ascendingFrom_cons {lo : Nat} {e : IdamEntry} {rest : List IdamEntry} :
    ascendingFrom lo (e :: rest) = true ↔ lo ≤ e.offset ∧ ascendingFrom (e.offset + 1) rest = true := by
  simp [ascendingFrom]

theorem ascendingFrom_mono {l : List IdamEntry} {lo lo' : Nat} (h : lo' ≤ lo) (ha : ascendingFrom lo l = true) :
    ascendingFrom lo' l = true := by
  cases l with
  | nil => rfl
  | cons e rest =>
    rw [ascendingFrom_cons] at ha ⊢
    exact ⟨h.trans ha.1, ha.2⟩

/-- A later start fits when every offset is from it on. -/
theorem ascendingFrom_raise {l : List IdamEntry} {lo lo' : Nat} (ha : ascendingFrom lo l = true)
    (h : ∀ e ∈ l, lo' ≤ e.offset) : ascendingFrom lo' l = true := by
  cases l with
  | nil => rfl
  | cons x rest =>
    rw [ascendingFrom_cons] at ha ⊢
    exact ⟨h x List.mem_cons_self, ha.2⟩

/-- Two ascending runs, the first below `mid` and the second from `mid` on. -/
theorem ascendingFrom_append {l l' : List IdamEntry} {lo mid : Nat} (h : ascendingFrom lo l = true)
    (hlt : ∀ e ∈ l, e.offset < mid) (h' : ascendingFrom mid l' = true) (hlo : lo ≤ mid) :
    ascendingFrom lo (l ++ l') = true := by
  induction l generalizing lo with
  | nil => exact ascendingFrom_mono hlo h'
  | cons x rest ih =>
    rw [List.forall_mem_cons] at hlt
    rw [ascendingFrom_cons] at h
    rw [List.cons_append, ascendingFrom_cons]
    exact ⟨h.1, ih h.2 hlt.2 (Nat.succ_le_of_lt hlt.1)⟩

theorem ascendingFrom_sublist {l l' : List IdamEntry} (hs : l.Sublist l') {lo : Nat} (h : ascendingFrom lo l' = true) :
    ascendingFrom lo l = true := by
  induction hs generalizing lo with
  | slnil => rfl
  | cons x _ ih =>
    rw [ascendingFrom_cons] at h
    exact ascendingFrom_mono (by omega) (ih h.2)
  | cons_cons x _ ih =>
    rw [ascendingFrom_cons] at h ⊢
    exact ⟨h.1, ih h.2⟩

theorem Track.indexOk_iff {c : Config} {T : Track} :
    T.indexOk c = true ↔ T.index.length ≤ c.idamSlots ∧ ascendingFrom 0 T.index = true ∧
      ∀ e ∈ T.index, e.offset < T.len := by
  simp [Track.indexOk, and_assoc]

theorem Medium.wf_iff {c : Config} {m : Medium} :
    m.wf c = true ↔ m.geometryOk c = true ∧
      ∀ T ∈ m.tracks, T.bufferOk (m.declLen - c.trackHdr) = true ∧ T.indexOk c = true := by
  simp [Medium.wf]

/-- A medium in form has the form that every step keeps. -/
theorem Medium.formKept_of_wf {c : Config} {m : Medium} (h : m.wf c = true) : m.formKept c = true := by
  obtain ⟨hgeo, hall⟩ := Medium.wf_iff.1 h
  exact Medium.formKept_iff.2 ⟨hgeo, fun T hT => ⟨(hall T hT).1, (Track.indexOk_iff.1 (hall T hT).2).1⟩⟩

/-- A track whose buffer holds the given bytes. -/
theorem Track.bufferOk_ofBytes {cap : Nat} {bytes : List Byte} {index : List IdamEntry} (hpos : 0 < bytes.length)
    (hle : bytes.length ≤ cap) :
    Track.bufferOk cap { len := bytes.length, data := Memory.ofBytes 0 bytes, index := index } = true := by
  simp only [Track.bufferOk, Bool.and_eq_true, decide_eq_true_eq]
  exact ⟨⟨⟨hpos, hle⟩, Memory.ofBytes_wf bytes⟩, Memory.ofBytes_all bytes 0 bytes.length (by omega)⟩

/-! ### Load (R366) -/

/-- An entry put in its place: the entries are the old ones and at most one of the new offset. -/
theorem mem_insertEntry_offset {e x : IdamEntry} {l : List IdamEntry} (h : x ∈ insertEntry e l) :
    x.offset = e.offset ∨ x ∈ l := by
  induction l with
  | nil =>
    left
    rw [List.mem_singleton.1 h]
  | cons y rest ih =>
    unfold insertEntry at h
    split_ifs at h with hlt heq hdd
    · rcases List.mem_cons.1 h with rfl | h
      · exact .inl rfl
      · exact .inr h
    · exact .inr h
    · rcases List.mem_cons.1 h with rfl | h
      · exact .inl heq.symm
      · exact .inr (List.mem_cons_of_mem _ h)
    · rcases List.mem_cons.1 h with rfl | h
      · exact .inr List.mem_cons_self
      · exact (ih h).imp_right (List.mem_cons_of_mem _)

theorem ascendingFrom_insertEntry {e : IdamEntry} {l : List IdamEntry} {lo : Nat} (h : ascendingFrom lo l = true)
    (hlo : lo ≤ e.offset) : ascendingFrom lo (insertEntry e l) = true := by
  induction l generalizing lo with
  | nil => simpa [insertEntry, ascendingFrom] using hlo
  | cons y rest ih =>
    have hy := ascendingFrom_cons.1 h
    unfold insertEntry
    split_ifs with hlt heq hdd
    · exact ascendingFrom_cons.2 ⟨hlo, ascendingFrom_cons.2 ⟨hlt, hy.2⟩⟩
    · exact h
    · exact ascendingFrom_cons.2 hy
    · exact ascendingFrom_cons.2 ⟨hy.1, ih hy.2 (by omega)⟩

theorem length_insertEntry_le (e : IdamEntry) (l : List IdamEntry) : (insertEntry e l).length ≤ l.length + 1 := by
  induction l with
  | nil => simp [insertEntry]
  | cons y rest ih =>
    unfold insertEntry
    split_ifs
    · simp
    · simp
    · simp
    · simpa using ih

/-- Sorting an image's pointers (R366): ascending, none added, every offset an old one. -/
theorem sortEntries_ordered (es : List IdamEntry) :
    ascendingFrom 0 (sortEntries es) = true ∧ (sortEntries es).length ≤ es.length ∧
      ∀ x ∈ sortEntries es, ∃ e ∈ es, x.offset = e.offset := by
  induction es with
  | nil => exact ⟨rfl, Nat.le_refl _, by simp [sortEntries]⟩
  | cons e rest ih =>
    obtain ⟨hasc, hlen, hmem⟩ := ih
    refine ⟨ascendingFrom_insertEntry hasc (Nat.zero_le _), ?_, fun x hx => ?_⟩
    · have := length_insertEntry_le e (sortEntries rest)
      show (insertEntry e (sortEntries rest)).length ≤ rest.length + 1
      omega
    · rcases mem_insertEntry_offset hx with h | h
      · exact ⟨e, List.mem_cons_self, h⟩
      · obtain ⟨e', he', ho⟩ := hmem x h
        exact ⟨e', List.mem_cons_of_mem _ he', ho⟩

/-- The pointers of a track record lie in its data (R365, R366). -/
theorem parsePointers_spec {base dataLen : Nat} {ws : List Nat} {es : List IdamEntry}
    (h : parsePointers base dataLen ws = some es) : es.length ≤ ws.length ∧ ∀ e ∈ es, e.offset < dataLen := by
  induction ws generalizing es with
  | nil =>
    cases h
    simp
  | cons w rest ih =>
    unfold parsePointers at h
    dsimp only at h
    split_ifs at h with hzero hout
    · cases h
      simp
    · obtain ⟨es', hes', rfl⟩ := Option.map_eq_some_iff.1 h
      obtain ⟨hlen, hall⟩ := ih hes'
      refine ⟨Nat.succ_le_succ hlen, ?_⟩
      rw [List.forall_mem_cons]
      exact ⟨by dsimp only; omega, hall⟩

theorem length_leWords_le : ∀ bs : List Byte, 2 * (leWords bs).length ≤ bs.length
  | [] => by simp [leWords]
  | [_] => by simp [leWords]
  | _ :: _ :: rest => by
    have := length_leWords_le rest
    simp only [leWords, List.length_cons]
    omega

/-- A loaded track is in form. -/
theorem loadTrack_wf {c : Config} {rec : List Byte} {T : Track} (h : loadTrack c rec = some T)
    (hlen : c.trackHdr < rec.length) : T.bufferOk (rec.length - c.trackHdr) = true ∧ T.indexOk c = true := by
  obtain ⟨es, hes, rfl⟩ := Option.map_eq_some_iff.1 h
  obtain ⟨hptr, hin⟩ := parsePointers_spec hes
  obtain ⟨hasc, hsort, hmem⟩ := sortEntries_ordered es
  have hwords := length_leWords_le (rec.take (2 * c.idamSlots))
  have htake := List.length_take_le (2 * c.idamSlots) rec
  refine ⟨Track.bufferOk_ofBytes ?_ (by rw [List.length_drop]), Track.indexOk_iff.2 ⟨?_, hasc, fun e he => ?_⟩⟩
  · rw [List.length_drop]
    omega
  · show (sortEntries es).length ≤ c.idamSlots
    omega
  · obtain ⟨e', he', ho⟩ := hmem e he
    rw [ho]
    exact hin e' he'

theorem loadTracks_wf {c : Config} {declLen n : Nat} {f : List Byte} {ts : List Track}
    (h : loadTracks c declLen n f = some ts) (hhdr : c.trackHdr < declLen) (hf : n * declLen ≤ f.length) :
    ts.length = n ∧ ∀ T ∈ ts, T.bufferOk (declLen - c.trackHdr) = true ∧ T.indexOk c = true := by
  induction n generalizing f ts with
  | zero =>
    cases h
    simp
  | succ n ih =>
    have hmul : (n + 1) * declLen = n * declLen + declLen := Nat.succ_mul n declLen
    have hrec : (f.take declLen).length = declLen := by
      rw [List.length_take]
      omega
    unfold loadTracks at h
    split at h
    · cases h
    · rename_i T hT
      obtain ⟨ts', hts', rfl⟩ := Option.map_eq_some_iff.1 h
      obtain ⟨hlen, hall⟩ := ih hts' (by rw [List.length_drop]; omega)
      refine ⟨by simp [hlen], ?_⟩
      rw [List.forall_mem_cons]
      have hwf := loadTrack_wf hT (by omega)
      rw [hrec] at hwf
      exact ⟨hwf, hall⟩

/-- A loaded medium is in form (R366, R68, R69). -/
theorem loadImage_wf {c : Config} {path : String} {f : List Byte} {m : Medium} (h : loadImage c path f = .ok m) :
    m.wf c = true := by
  unfold loadImage at h
  dsimp only at h
  have hsides : (if (fileByte f 4).getLsbD 4 then 1 else 2) = 1 ∨ (if (fileByte f 4).getLsbD 4 then 1 else 2) = 2 := by
    split_ifs <;> simp
  generalize (if (fileByte f 4).getLsbD 4 then 1 else 2) = sides at h hsides
  split at h; · cases h
  split at h; · cases h
  split at h; · cases h
  rename_i htracks
  split at h; · cases h
  rename_i hdecl
  split at h; · cases h
  rename_i hfile
  split at h
  · cases h
  · rename_i ts hts
    cases h
    push Not at htracks hdecl
    obtain ⟨hlen, hall⟩ := loadTracks_wf hts hdecl.1 (by rw [List.length_drop]; omega)
    refine Medium.wf_iff.2 ⟨?_, hall⟩
    simp only [Medium.geometryOk, Bool.and_eq_true, decide_eq_true_eq, Bool.or_eq_true, beq_iff_eq]
    exact ⟨⟨⟨⟨⟨by omega, htracks.2⟩, hsides⟩, hdecl.1⟩, hdecl.2⟩, hlen⟩

/-! ### Encode (R330, R334) -/

theorem length_doubled (k : Nat) (bytes : List Byte) : (doubled k bytes).length = k * bytes.length := by
  induction bytes with
  | nil => simp [doubled]
  | cons b rest ih =>
    simp only [doubled, List.map_cons, List.flatten_cons, List.length_append, List.length_replicate, List.length_cons] at ih ⊢
    rw [ih]
    ring

theorem length_syncRun_lt (c : Config) (d : SectorDescriptor) : (syncRun d.dd).length < (sectorLayout c d).length := by
  simp [sectorLayout]

/-- The ID marks of the sectors laid out from `pos` on: one each, ascending, inside the bytes. -/
theorem layoutSectors_marks (c : Config) (k : Nat) (dd : Bool) (hk : 0 < k) (ds : List SectorDescriptor) : ∀ pos : Nat,
    (layoutSectors c pos ds).2.length = ds.length ∧
    ascendingFrom (k * pos) ((layoutSectors c pos ds).2.map fun p => { offset := k * p, dd := dd }) = true ∧
    ∀ p ∈ (layoutSectors c pos ds).2, p < pos + (layoutSectors c pos ds).1.length := by
  induction ds with
  | nil => simp [layoutSectors, ascendingFrom]
  | cons d rest ih =>
    intro pos
    obtain ⟨hlen, hasc, hin⟩ := ih (pos + (sectorLayout c d).length)
    have hsync := length_syncRun_lt c d
    simp only [layoutSectors, List.length_cons, List.length_append, List.map_cons, ascendingFrom_cons, List.forall_mem_cons]
    refine ⟨by omega, ⟨Nat.mul_le_mul_left k (Nat.le_add_right _ _), ?_⟩, by omega, fun p hp => ?_⟩
    · refine ascendingFrom_mono ?_ hasc
      have : k * (pos + (syncRun d.dd).length + 1) ≤ k * (pos + (sectorLayout c d).length) :=
        Nat.mul_le_mul_left k (by omega)
      nlinarith
    · have := hin p hp
      omega

theorem entryStride_pos (dd singleByte : Bool) : 0 < entryStride dd singleByte := by
  unfold entryStride
  split_ifs <;> decide

/-- An encoded track is in form, with one index entry for each descriptor. -/
theorem encodeTrack_wf {c : Config} {ds : List SectorDescriptor} {dd singleByte : Bool} {cap : Nat} {T : Track}
    (h : encodeTrack c ds dd cap singleByte = some T) (hcap : 0 < cap) (hds : ds.length ≤ c.idamSlots) :
    T.bufferOk cap = true ∧ T.indexOk c = true := by
  have hk := entryStride_pos dd singleByte
  obtain ⟨hlen, hasc, hin⟩ := layoutSectors_marks c (entryStride dd singleByte) dd hk ds (gap4a dd).length
  unfold encodeTrack at h
  dsimp only at h
  split_ifs at h with hfit
  cases h
  simp only [Bool.and_eq_true, decide_eq_true_eq] at hfit
  generalize hlog : gap4a dd ++ (layoutSectors c (gap4a dd).length ds).1 = logical at hfit ⊢
  have hraw : (doubled (entryStride dd singleByte) logical).length ≤ cap := by
    rw [length_doubled]
    exact (Nat.mul_le_mul_left _ hfit.2).trans (Nat.mul_div_le _ _)
  generalize hpad : doubled (entryStride dd singleByte) logical ++
    List.replicate (cap - (doubled (entryStride dd singleByte) logical).length) (gapByte dd) = padded
  have hpadded : padded.length = cap := by
    rw [← hpad, List.length_append, List.length_replicate]
    omega
  subst hpadded
  refine ⟨Track.bufferOk_ofBytes hcap (Nat.le_refl _), Track.indexOk_iff.2 ⟨?_, ascendingFrom_mono (Nat.zero_le _) hasc, ?_⟩⟩
  · simpa [hlen] using hds
  · intro e he
    obtain ⟨p, hp, rfl⟩ := List.mem_map.1 he
    have hplt : p < logical.length := by
      have := hin p hp
      rw [← hlog, List.length_append]
      exact this
    rw [length_doubled] at hraw
    exact ((Nat.mul_lt_mul_left hk).2 hplt).trans_le hraw

theorem length_replaceDescriptor {d : SectorDescriptor} {ds ds' : List SectorDescriptor}
    (h : replaceDescriptor d ds = some ds') : ds'.length = ds.length := by
  induction ds generalizing ds' with
  | nil => cases h
  | cons x rest ih =>
    unfold replaceDescriptor at h
    split_ifs at h
    · cases h
      rfl
    · obtain ⟨ds'', hds'', rfl⟩ := Option.map_eq_some_iff.1 h
      simp [ih hds'']

/-- A descriptor-level write leaves the track in form (R336). -/
theorem rewriteTrack_wf {c : Config} {m : Medium} {T T' : Track} {d : SectorDescriptor}
    (h : rewriteTrack c m T d = .ok T') (hcap : c.trackHdr < m.declLen) (hidx : T.index.length ≤ c.idamSlots) :
    T'.bufferOk (m.declLen - c.trackHdr) = true ∧ T'.indexOk c = true := by
  unfold rewriteTrack at h
  split at h
  · cases h
  · rename_i ds hds
    split at h
    · cases h
    · rename_i T'' hT''
      cases h
      refine encodeTrack_wf hT'' (by omega) ?_
      rw [length_replaceDescriptor hds, decodeTrack, List.length_map]
      exact (List.length_filter_le _ _).trans hidx

end Sys2Proof.Machine
end

section
/-! PROOFS. What an instruction, an Operator action and a step can do; the drives that are not selected stay, and every step
keeps the invariant. -/

namespace Sys2Proof.Machine

/-! ### What an instruction can do -/

/-- The effects of an instruction: a command write, an access of another port, a select, or a call of the scheduler. -/
inductive Effect (s : State) : Instr → State → Prop
  | command (i : Instr) (v : Byte) (hi : i.portAccess = true) : Effect s i (({ s with inUnit := true } : State).writeCommand v)
  | port (i : Instr) (f : Fdc) (d : Byte) (hi : i.portAccess = true)
      (hf : f = { s.fdc with tr := f.tr, sr := f.sr, dr := f.dr, drq := f.drq, intrq := f.intrq }) :
      Effect s i { s with inUnit := true, fdc := f, hostData := d }
  | select (v : Byte) : Effect s (.wrSelect v) (({ s with inUnit := true } : State).writeSelect v)
  | advance (n : Nat) : Effect s (.advance n) (s.advanceBy n)
  | registerPulse (cb : Callback) (delay : Nat) (periodic : Bool) (period : Nat) :
      Effect s (.registerPulse cb delay periodic period)
        { (s.registerPulse cb delay periodic period) with hostHandle := s.clk.nextHandle }
  | expire (handle : Nat) : Effect s (.expire handle) (s.expirePulse handle)
  | dispatch : Effect s .dispatch s.dispatchDue
  | goto (target : OpStatus) (delay : Nat) : Effect s (.goto target delay) (s.goto target delay)

/-- An instruction that answers a next state had no fault mark before it, and one of the effects. -/
theorem exec_inv {i : Instr} {s t : State} (h : exec i s = .next t) : s.fault = none ∧ Effect s i t := by
  unfold exec at h
  cases i with
  | restore | seek | step | stepIn | stepOut | readSector | writeSector | readAddress | forceInterrupt | readTrack
  | writeTrack | wrCommand =>
    obtain ⟨hfault, rfl⟩ := portAccess_inv h
    exact ⟨hfault, .command _ _ rfl⟩
  | rdStatus | rdTrack | wrTrack | rdSector | wrSector | rdData | wrData | rdSelect =>
    obtain ⟨hfault, rfl⟩ := portAccess_inv h
    exact ⟨hfault, .port _ _ _ rfl rfl⟩
  | wrSelect v =>
    obtain ⟨hfault, rfl⟩ := portAccess_inv h
    exact ⟨hfault, .select v⟩
  | advance n =>
    obtain ⟨hfault, rfl⟩ := guarded_inv h
    exact ⟨hfault, .advance n⟩
  | registerPulse cb delay periodic period =>
    obtain ⟨hfault, rfl⟩ := guarded_inv h
    exact ⟨hfault, .registerPulse cb delay periodic period⟩
  | expire handle =>
    obtain ⟨hfault, rfl⟩ := guarded_inv h
    exact ⟨hfault, .expire handle⟩
  | dispatch =>
    obtain ⟨hfault, rfl⟩ := guarded_inv h
    exact ⟨hfault, .dispatch⟩
  | goto target delay =>
    obtain ⟨hfault, rfl⟩ := guarded_inv h
    exact ⟨hfault, .goto target delay⟩

/-- `s` at tick `k`, the Host between units. -/
def State.atTick (s : State) (k : Nat) : State := { s with clk := { s.clk with ticks := k }, inUnit := false }

/-- An Advance overflows, or lets whole T-states pass and dispatches (R141). -/
theorem State.advanceBy_cases (s : State) (n : Nat) :
    s.advanceBy n = s.raiseFatal .clockOverflow ∨
      ∃ k, s.clk.ticks + k * s.cfg.ticksPerTstate < 2 ^ 64 ∧
        s.advanceBy n = (s.atTick (s.clk.ticks + k * s.cfg.ticksPerTstate)).dispatchDue := by
  unfold State.advanceBy
  dsimp only
  split_ifs with hover
  · exact .inl rfl
  · exact .inr ⟨s.unitCost n, by omega, rfl⟩

/-! ### The drives that are not selected (R71, R200) -/

/-- The selection stays, and so does every drive that is not selected. -/
def OthersKept (s u : State) : Prop :=
  u.fdc.selDrive = s.fdc.selDrive ∧ ∀ n, s.fdc.selDrive ≠ some n → u.drive n = s.drive n

theorem OthersKept.trans {s u w : State} (h₁ : OthersKept s u) (h₂ : OthersKept u w) : OthersKept s w :=
  ⟨h₂.1.trans h₁.1, fun n hn => (h₂.2 n (h₁.1 ▸ hn)).trans (h₁.2 n hn)⟩

theorem setCurTrack_othersKept (s : State) (T : Track) (c : Bool) : OthersKept s (s.setCurTrack T c) :=
  ⟨by rw [State.setCurTrack_shape], fun _ hn => State.setCurTrack_otherDrive hn T c⟩

theorem Move.othersKept {s u : State} (h : Move s u) : OthersKept s u := by
  refine ⟨h.frame.keeps.selDrive, ?_⟩
  cases h with
  | fdc => exact fun _ _ => rfl
  | head dir =>
    intro n hn
    rw [State.stepHead_drive, if_neg hn]
  | write v =>
    cases hT : s.curTrack with
    | none =>
      rw [State.writeLogical_of_none hT]
      exact fun _ _ => rfl
    | some T =>
      rw [State.writeLogical_of_some hT]
      exact (setCurTrack_othersKept s _ true).2
  | put v =>
    cases hT : s.curTrack with
    | none =>
      rw [State.wtPut_of_none hT]
      exact fun _ _ => rfl
    | some T =>
      rw [State.wtPut_of_some hT]
      exact (setCurTrack_othersKept s _ _).2
  | commit =>
    unfold State.wtCommit
    split
    · exact (setCurTrack_othersKept s _ _).2
    · exact fun _ _ => rfl

theorem Act.othersKept {s u : State} (h : Act s u) : OthersKept s u := by
  cases h with
  | move h => exact h.othersKept
  | fdc h => exact ⟨h.selDrive, fun _ _ => rfl⟩
  | abort =>
    unfold State.wtAbort
    split
    · exact setCurTrack_othersKept s _ _
    · exact ⟨rfl, fun _ _ => rfl⟩
  | takeHandle | insert | expire | drop | take => exact ⟨rfl, fun _ _ => rfl⟩
  | lines hcfg hclk hfdc hdrives => exact ⟨by rw [hfdc], fun n _ => by simp [State.drive, hdrives]⟩

theorem Acts.othersKept {s u : State} (h : Acts s u) : OthersKept s u := by
  induction h with
  | refl => exact ⟨rfl, fun _ _ => rfl⟩
  | tail _ hact ih => exact ih.trans hact.othersKept

/-! ### The core of the invariant -/

/-- The invariant but for the future of the pulses, which a Dispatch under way does not have. -/
structure State.Core (s : State) : Prop where
  legal : legalConfig s.cfg = true
  clock : s.clk.Sound s.cfg
  oneError : s.fdc.errorCount ≤ 1
  newIndex : s.fdc.newIndex.length ≤ s.cfg.idamSlots
  selected : ∀ n, s.fdc.selDrive = some n → n.val < s.cfg.numDrives
  form : s.Form

theorem State.inv_iff {s : State} : s.Inv ↔ s.Core ∧ (s.fault = none → s.clk.Future) := by
  constructor
  · intro h
    exact ⟨⟨h.legal, ⟨h.aligned, h.bounded, h.periods, h.handles, h.seqs⟩, h.oneError, h.newIndex, h.selected,
      ⟨h.heads, h.media⟩⟩, h.future⟩
  · rintro ⟨h, hfuture⟩
    exact ⟨h.legal, h.clock.aligned, h.clock.bounded, hfuture, h.clock.periods, h.clock.handles, h.clock.seqs, h.oneError,
      h.form.heads, h.form.media, h.newIndex, h.selected⟩

/-- The core depends on the parameters, the clock, the controller and the drives alone. -/
theorem State.Core.congr {s u : State} (h : s.Core) (hcfg : u.cfg = s.cfg) (hclk : u.clk = s.clk) (hfdc : u.fdc = s.fdc)
    (hdrives : u.drives = s.drives) : u.Core := by
  have hdrive : ∀ n, u.drive n = s.drive n := fun n => by simp [State.drive, hdrives]
  refine ⟨by rw [hcfg]; exact h.legal, by rw [hcfg, hclk]; exact h.clock, by rw [hfdc]; exact h.oneError,
    by rw [hcfg, hfdc]; exact h.newIndex, by rw [hcfg, hfdc]; exact h.selected, ?_, ?_⟩
  · intro n
    rw [hdrive, hcfg]
    exact h.form.heads n
  · intro n m hm
    rw [hcfg]
    exact h.form.media n m (hdrive n ▸ hm)

theorem State.Core.withFdc {s : State} (h : s.Core) {f : Fdc} (herr : f.errorCount ≤ 1)
    (hidx : f.newIndex.length ≤ s.cfg.idamSlots) (hsel : ∀ n, f.selDrive = some n → n.val < s.cfg.numDrives) :
    (s.withFdc f).Core :=
  ⟨h.legal, h.clock, herr, hidx, hsel, h.form.heads, h.form.media⟩

theorem State.Core.withClock {s : State} (h : s.Core) {k : Clock} (hk : k.Sound s.cfg) :
    ({ s with clk := k } : State).Core :=
  ⟨h.legal, hk, h.oneError, h.newIndex, h.selected, h.form.heads, h.form.media⟩

theorem Move.form {s u : State} (h : Move s u) (hform : s.Form) (hidx : s.fdc.newIndex.length ≤ s.cfg.idamSlots) :
    u.Form := by
  cases h with
  | fdc => exact ⟨hform.heads, hform.media⟩
  | head dir => exact hform.stepHead dir
  | write v => exact hform.writeLogical v
  | put v => exact hform.wtPut v
  | commit _ hcursor => exact hform.wtCommit hcursor hidx

theorem Act.core {s u : State} (h : Act s u) (hs : s.Core) : u.Core := by
  cases h with
  | move h =>
    have hkeeps := h.frame.keeps
    refine ⟨h.frame.cfg ▸ hs.legal, ?_, hkeeps.oneError hs.oneError, ?_, ?_, h.form hs.form hs.newIndex⟩
    · rw [h.frame.cfg, h.frame.clk]
      exact hs.clock
    · rw [h.frame.cfg]
      exact hkeeps.newIndex hs.newIndex
    · rw [h.frame.cfg, hkeeps.selDrive]
      exact hs.selected
  | fdc h => exact hs.withFdc (h.oneError hs.oneError) (h.newIndex hs.newIndex) (h.selDrive ▸ hs.selected)
  | abort =>
    have hform := hs.form.wtAbort
    rw [State.wtAbort_shape] at hform ⊢
    exact ⟨hs.legal, hs.clock, hs.oneError, hs.newIndex, hs.selected, hform⟩
  | takeHandle => exact hs.withClock hs.clock.takeHandle
  | insert cb hh hd hp => exact hs.withClock (hs.clock.insert hh hp)
  | expire handle => exact hs.withClock (hs.clock.expire handle)
  | drop => exact hs.withClock hs.clock.drop
  | take he => exact hs.withClock (hs.clock.take he)
  | lines hcfg hclk hfdc hdrives => exact hs.congr hcfg hclk hfdc hdrives

theorem Act.future {s u : State} (h : Act s u) (hs : s.clk.Future) : u.clk.Future := by
  cases h with
  | move h => rwa [h.frame.clk]
  | fdc => exact hs
  | abort =>
    rw [State.wtAbort_shape]
    exact hs
  | takeHandle => exact hs
  | insert cb hh hd hp => exact hs.insert hd
  | expire handle => exact hs.expire handle
  | drop => exact hs.drop
  | take he => exact hs.take he
  | lines hcfg hclk hfdc hdrives => rwa [hclk]

theorem Acts.core {s u : State} (h : Acts s u) (hs : s.Core) : u.Core := by
  induction h with
  | refl => exact hs
  | tail _ hact ih => exact hact.core ih

theorem Acts.future {s u : State} (h : Acts s u) (hs : s.clk.Future) : u.clk.Future := by
  induction h with
  | refl => exact hs
  | tail _ hact ih => exact hact.future ih

theorem Acts.inv {s u : State} (h : Acts s u) (hs : s.Core) (hfuture : s.clk.Future) : u.Inv :=
  State.inv_iff.2 ⟨h.core hs, fun _ => h.future hfuture⟩

/-! ### Dispatch and Advance (R145, R141, R153 (a)) -/

/-- A Dispatch that raises no Fatal leaves nothing due. -/
theorem dispatchLoop_future (fuel : Nat) : ∀ s : State, (dispatchLoop fuel s).fault = none → (dispatchLoop fuel s).clk.Future := by
  induction fuel with
  | zero =>
    intro s
    unfold dispatchLoop
    dsimp only
    split_ifs with hnone
    · exact fun _ => Clock.nextDue_eq_none.1 (Option.isNone_iff_eq_none.1 hnone)
    · exact fun h => absurd h (by simp [State.raiseFatal])
  | succ fuel ih =>
    intro s
    unfold dispatchLoop
    dsimp only
    split
    · rename_i hnone
      exact fun _ => Clock.nextDue_eq_none.1 hnone
    · split_ifs with hfault
      · exact fun h => absurd h (Option.isSome_iff_ne_none.1 hfault)
      · exact ih _

theorem State.Core.dispatchDue_inv {s : State} (h : s.Core) : s.dispatchDue.Inv :=
  State.inv_iff.2 ⟨(dispatchLoop_acts _ s).core h, dispatchLoop_future _ s⟩

theorem State.Core.atTick {s : State} (h : s.Core) {k : Nat} (hk : s.clk.ticks + k * s.cfg.ticksPerTstate < 2 ^ 64) :
    (s.atTick (s.clk.ticks + k * s.cfg.ticksPerTstate)).Core := by
  have halign : (s.clk.ticks + k * s.cfg.ticksPerTstate) % s.cfg.ticksPerTstate = 0 := by
    rw [Nat.add_mul_mod_self_right]
    exact h.clock.aligned
  have hsound : Clock.Sound s.cfg { s.clk with ticks := s.clk.ticks + k * s.cfg.ticksPerTstate } :=
    { h.clock with aligned := halign, bounded := hk }
  exact (h.withClock hsound).congr rfl rfl rfl rfl

theorem State.Core.advanceBy_inv {s : State} (h : s.Core) (hfuture : s.clk.Future) (n : Nat) : (s.advanceBy n).Inv := by
  rcases s.advanceBy_cases n with he | ⟨k, hk, he⟩
  · rw [he]
    exact (Acts.raiseFatal .refl _).inv h hfuture
  · rw [he]
    exact (h.atTick hk).dispatchDue_inv

end Sys2Proof.Machine
end

section
/-! PROOFS. The drives that are not selected stay whatever instruction runs; what a step can do; every step keeps the
invariant. -/

namespace Sys2Proof.Machine

/-! ### Selects -/

theorem State.readyEdge_drives (s : State) : s.readyEdge.drives = s.drives := by
  rw [State.readyEdge_eq]

theorem State.expireOpt_drives (s : State) (o : Option Nat) : (s.expireOpt o).drives = s.drives := by
  rw [State.expireOpt_eq]

theorem State.registerPulse_motorOff_drives (s : State) (delay period : Nat) :
    (s.registerPulse .motorOff delay false period).drives = s.drives := by
  simp only [State.registerPulse, Bool.false_eq_true, false_and, if_false]
  split
  · exact State.readyEdge_drives _
  · rfl

theorem State.retriggerMotor_drives (s : State) : s.retriggerMotor.drives = s.drives :=
  (State.registerPulse_motorOff_drives _ _ _).trans (State.expireOpt_drives _ _)

theorem State.redirected_drives (s : State) (old : Fdc) : (s.redirected old).drives = s.drives := by
  rw [State.redirected_eq]
  rfl

/-- A select changes no drive (R179). -/
theorem State.select_drives (s : State) (f : Fdc) (driveBit : Bool) : (s.select f driveBit).drives = s.drives := by
  unfold State.select
  dsimp only
  rw [State.readyEdge_drives]
  split
  · exact (State.retriggerMotor_drives _).trans (State.redirected_drives _ _)
  · exact State.redirected_drives _ _

/-- Settles O60: every instruction is a sequence of acts, which touch the selected drive alone, or a select, which touches
none. -/
theorem otherDrivesKept : Obligations.OtherDrivesKept := by
  unfold Obligations.OtherDrivesKept
  intro i s t h n hn
  obtain ⟨-, heffect⟩ := exec_inv h
  have hunit : Acts s { s with inUnit := true } := Acts.lines .refl rfl rfl rfl rfl
  cases heffect with
  | command _ v _ => exact (hunit.writeCommand v).othersKept.2 n hn
  | port => rfl
  | select v =>
    have hdrives := State.select_drives { s with inUnit := true }
    simp only [State.drive, State.writeSelect, hdrives]
  | advance k =>
    rcases s.advanceBy_cases k with he | ⟨j, -, he⟩
    · rw [he]
      rfl
    · rw [he]
      exact (dispatchLoop_acts _ _).othersKept.2 n hn
  | registerPulse cb delay periodic period =>
    exact ((Acts.registerPulse .refl cb delay periodic period).lines rfl rfl rfl rfl).othersKept.2 n hn
  | expire handle => rfl
  | dispatch => exact (dispatchLoop_acts _ s).othersKept.2 n hn
  | goto target delay => exact (finish_acts chainBound (.goto target delay s)).othersKept.2 n hn

/-! ### What a step can do -/

/-- `s` with its script and its Operator's list replaced: what the fetch takes off. -/
def State.feed (s : State) (script : List HostItem) (operator : List (Nat × OperatorAction)) : State :=
  { s with script := script, operator := operator }

/-- The ways a step goes on. -/
inductive StepCase (s t : State) : Prop
  | operator (a : OperatorAction) (script : List HostItem) (rest : List (Nat × OperatorAction))
      (hevent : s.nextEvent = .operator a (s.feed script rest)) (h : (s.feed script rest).operate a = .next t)
  | held (hevent : s.nextEvent = .heldTick) (h : t = s.advanceBy s.cfg.waitTstates)
  | instr (i : Instr) (script : List HostItem) (rest : List (Nat × OperatorAction))
      (hevent : s.nextEvent = .instr i (s.feed script rest)) (h : exec i (s.feed script rest) = .next t)
  | select (n : Fin 4) (side : Bool) (script : List HostItem) (rest : List (Nat × OperatorAction))
      (hevent : s.nextEvent = .selectDrive n side (s.feed script rest))
      (h : t = ({ (s.feed script rest) with inUnit := true } : State).selectDrive n side)
  | reset (script : List HostItem) (rest : List (Nat × OperatorAction))
      (hevent : s.nextEvent = .resetLine (s.feed script rest))
      (h : t = ({ (s.feed script rest) with inUnit := true } : State).hardReset)

theorem State.operatorNow_inv {s u : State} {a : OperatorAction} (h : s.operatorNow = some (a, u)) :
    ∃ rest, u = s.feed s.script rest := by
  unfold State.operatorNow at h
  split at h
  · split_ifs at h
    cases h
    exact ⟨_, rfl⟩
  · cases h

/-- A step that answers a next state had no fault mark before it, and is one of the cases. -/
theorem step_inv {s t : State} (h : step s = .next t) : s.fault = none ∧ StepCase s t := by
  have hfault : s.fault = none := by
    cases hf : s.fault with
    | none => rfl
    | some r =>
      rw [step_of_fault hf] at h
      cases h
  refine ⟨hfault, ?_⟩
  cases hop : s.operatorNow with
  | some p =>
    obtain ⟨a, u⟩ := p
    obtain ⟨rest, rfl⟩ := State.operatorNow_inv hop
    have hevent : s.nextEvent = .operator a (s.feed s.script rest) := by simp [State.nextEvent, hfault, hop]
    exact .operator a _ _ hevent (by simpa [step, hevent] using h)
  | none =>
    cases hheld : s.held with
    | true =>
      have hevent : s.nextEvent = .heldTick := by simp [State.nextEvent, hfault, hop, hheld]
      exact .held hevent (by simpa [step, hevent, eq_comm] using h)
    | false =>
      have hnext : s.nextEvent = s.hostEvent := State.nextEvent_eq_hostEvent hfault hop hheld
      unfold State.hostEvent at hnext
      split at hnext
      · rw [step, hnext] at h
        cases h
      · rename_i bytes rest _
        split at hnext
        · rw [step, hnext] at h
          exact .instr _ rest s.operator hnext h
        · rw [step, hnext] at h
          cases h
      · rename_i n side rest _
        refine .select n side rest s.operator hnext ?_
        rw [step, hnext] at h
        exact (portAccess_inv h).2
      · rename_i rest _
        refine .reset rest s.operator hnext ?_
        rw [step, hnext] at h
        exact (portAccess_inv h).2

/-! ### The instructions and the selects keep the invariant -/

/-- A drive the controller has (R64, assumption 25). -/
theorem presentDrive_lt {c : Config} {k n : Fin 4} (h : presentDrive c k = some n) : n.val < c.numDrives := by
  unfold presentDrive at h
  split_ifs at h with hk
  cases h
  exact hk

theorem State.Core.select_inv {s : State} (h : s.Core) (hfuture : s.clk.Future) {f : Fdc}
    (hf : s.fdc = { f with
      selDrive := s.fdc.selDrive, side := s.fdc.side, dd := s.fdc.dd, waitReq := s.fdc.waitReq })
    (hsel : ∀ n, f.selDrive = some n → n.val < s.cfg.numDrives) (driveBit : Bool) : (s.select f driveBit).Inv := by
  have herr : f.errorCount ≤ 1 := by
    have := h.oneError
    rw [hf] at this
    exact this
  have hidx : f.newIndex.length ≤ s.cfg.idamSlots := by
    have := h.newIndex
    rw [hf] at this
    exact this
  exact (s.select_acts f driveBit).inv (h.withFdc herr hidx hsel) hfuture

theorem Effect.inv {s t : State} {i : Instr} (he : Effect s i t) (h : s.Core) (hfuture : s.clk.Future) : t.Inv := by
  have hunit : Acts s { s with inUnit := true } := Acts.lines .refl rfl rfl rfl rfl
  cases he with
  | command _ v _ => exact (hunit.writeCommand v).inv h hfuture
  | port _ f d _ hf =>
    have hport : Acts s (s.withFdc f) := Acts.update .refl (by rw [hf])
    refine Acts.inv ?_ h hfuture
    exact hport.lines rfl rfl rfl rfl
  | select v =>
    unfold State.writeSelect
    refine (hunit.core h).select_inv hfuture ?_ (fun n hn => ?_) _
    · rfl
    obtain ⟨k, -, hk⟩ := Option.bind_eq_some_iff.1 hn
    exact presentDrive_lt hk
  | advance k => exact h.advanceBy_inv hfuture k
  | registerPulse cb delay periodic period =>
    refine Acts.inv ?_ h hfuture
    exact (Acts.registerPulse .refl cb delay periodic period).lines rfl rfl rfl rfl
  | expire handle => exact (Acts.act .refl (.expire s handle)).inv h hfuture
  | dispatch => exact h.dispatchDue_inv
  | goto target delay => exact Acts.inv (finish_acts chainBound (.goto target delay s)) h hfuture

/-! ### Reset and the Operator's actions keep the invariant -/

/-- The state whose controller Reset() clears: the index of a running Write Track is committed first (R440). -/
def State.abortIfWriting (s : State) : State :=
  if s.fdc.busy ∧ s.fdc.cmd = .writeTrack ∧ s.fdc.op = .writingTrack then s.wtAbort else s

theorem State.abortIfWriting_acts (s : State) : Acts s s.abortIfWriting := by
  unfold State.abortIfWriting
  split_ifs
  · exact .single (.abort s)
  · exact .refl

theorem State.abortIfWriting_shape (s : State) : s.abortIfWriting = { s with drives := s.abortIfWriting.drives } := by
  unfold State.abortIfWriting
  split_ifs
  · exact State.wtAbort_shape s
  · rfl

theorem State.abortIfWriting_cfg (s : State) : s.abortIfWriting.cfg = s.cfg := by rw [State.abortIfWriting_shape]

theorem State.abortIfWriting_clk (s : State) : s.abortIfWriting.clk = s.clk := by rw [State.abortIfWriting_shape]

theorem State.abortIfWriting_fault (s : State) : s.abortIfWriting.fault = s.fault := by rw [State.abortIfWriting_shape]

/-- The drives after a reset: every head at 0. -/
theorem State.hardReset_drive (s : State) (n : Fin 4) :
    s.hardReset.drive n = { (s.abortIfWriting.drive n) with physTrack := 0 } := by
  show ((s.abortIfWriting.drives.map fun d => { d with physTrack := 0 })[n] : Drive) = _
  simp [State.drive]

/-- Reset() expires every entry but the External ones (R440, R441). -/
theorem State.hardReset_pulses (s : State) : s.hardReset.clk.pulses =
    s.clk.pulses.map fun e => if e.fdcOwned then { e with expired := true } else e := by
  rw [← s.abortIfWriting_clk]
  rfl

/-- An entry after a reset is an old one, and live only when it is External (R441). -/
theorem State.mem_hardReset_pulses {s : State} {x : Pulse} (hx : x ∈ s.hardReset.clk.pulses) :
    ∃ e ∈ s.clk.pulses, x = { e with expired := x.expired } ∧ (x.expired = false → x = e ∧ e.cb = .external) := by
  rw [State.hardReset_pulses, List.mem_map] at hx
  obtain ⟨e, he, rfl⟩ := hx
  refine ⟨e, he, ?_, ?_⟩ <;> split_ifs with hown
  · rfl
  · rfl
  · simp
  · exact fun _ => ⟨rfl, by simpa [Pulse.fdcOwned] using hown⟩

theorem State.hardReset_clk (s : State) : s.hardReset.clk = { s.clk with pulses := s.hardReset.clk.pulses } := by
  rw [← s.abortIfWriting_clk]
  rfl

theorem State.hardReset_cfg (s : State) : s.hardReset.cfg = s.cfg := s.abortIfWriting_cfg

theorem State.Core.hardReset {s : State} (h : s.Core) : s.hardReset.Core := by
  have hform := (s.abortIfWriting_acts.core h).form
  constructor
  · rw [State.hardReset_cfg]
    exact h.legal
  · rw [State.hardReset_cfg, State.hardReset_clk]
    refine ⟨h.clock.aligned, h.clock.bounded, fun x hx => ?_, fun x hx => ?_, fun x hx => ?_⟩ <;>
      obtain ⟨e, he, hxe, -⟩ := State.mem_hardReset_pulses hx <;> rw [hxe]
    · exact h.clock.periods e he
    · exact h.clock.handles e he
    · exact h.clock.seqs e he
  · exact (by decide : Fdc.reset.errorCount ≤ 1)
  · exact Nat.zero_le _
  · intro n hn
    rw [State.hardReset_cfg]
    have hzero : (0 : Fin 4) = n := Option.some.inj hn
    obtain ⟨-, -, -, -, -, -, -, -, -, -, hdrives, -⟩ := legalConfig_pos h.legal
    rw [← hzero]
    exact hdrives
  · refine ⟨fun n => ?_, fun n m hm => ?_⟩
    · rw [State.hardReset_drive]
      exact Nat.zero_le _
    · rw [State.hardReset_drive] at hm
      rw [State.hardReset_cfg, ← s.abortIfWriting_cfg]
      exact hform.media n m hm

theorem Clock.Future.hardReset {s : State} (h : s.clk.Future) : s.hardReset.clk.Future := by
  intro x hx hlive
  obtain ⟨e, he, -, hxe⟩ := State.mem_hardReset_pulses hx
  obtain ⟨rfl, -⟩ := hxe hlive
  rw [State.hardReset_clk]
  exact h x he hlive

/-- The medium a drive has after one is replaced. -/
theorem State.drive_setMedium (s : State) (n k : Fin 4) (m : Option Medium) :
    (s.setMedium n m).drive k = if n = k then { (s.drive n) with medium := m } else s.drive k :=
  State.drive_setDrive s n k _

theorem State.AllMedia.setMedium {s : State} {R : Medium → Prop} (h : s.AllMedia R) (n : Fin 4) {m : Option Medium}
    (hm : ∀ m', m = some m' → R m') : (s.setMedium n m).AllMedia R := by
  intro k m' hm'
  rw [State.drive_setMedium] at hm'
  split_ifs at hm' with hk
  · exact hm m' hm'
  · exact h k m' hm'

theorem State.Core.setMedium {s : State} (h : s.Core) (n : Fin 4) {m : Option Medium}
    (hm : ∀ m', m = some m' → m'.formKept s.cfg = true) : (s.setMedium n m).Core := by
  refine ⟨h.legal, h.clock, h.oneError, h.newIndex, h.selected, fun k => ?_, h.form.media.setMedium n hm⟩
  rw [State.drive_setMedium]
  split_ifs
  · exact h.form.heads n
  · exact h.form.heads k

/-- What an Operator action can do: a medium in form comes in or goes out, the ready edge follows it; a field of the mounted
medium, or one of its tracks, changes; or the block is reset. -/
inductive OperatorEffect (s : State) : OperatorAction → State → Prop
  | mount (a : OperatorAction) (n : Fin 4) (m : Medium) (hm : m.wf s.cfg = true)
      (ha : ∀ u, (Event.operator a u).keepsTrack = false) : OperatorEffect s a (s.mount n m)
  | eject (a : OperatorAction) (n : Fin 4) (ha : ∀ u, (Event.operator a u).keepsTrack = false) :
      OperatorEffect s a (s.eject n)
  | label (a : OperatorAction) (n : Fin 4) (m m' : Medium) (hm : (s.drive n).medium = some m)
      (hm' : m' = { m with writeProtected := m'.writeProtected, changed := m'.changed, path := m'.path })
      (image : List Byte) : OperatorEffect s a { (s.setMedium n (some m')) with savedImage := image }
  | idle (a : OperatorAction) : OperatorEffect s a s
  | rewrite (n : Fin 4) (t : Nat) (side : Bool) (d : SectorDescriptor) (m : Medium) (T T' : Track)
      (hm : (s.drive n).medium = some m) (hT : m.track t side = some T) (hT' : rewriteTrack s.cfg m T d = .ok T') :
      OperatorEffect s (.writeDescriptor n t side d) (s.setMedium n (some { m.setTrack t side T' with changed := true }))
  | reset : OperatorEffect s .reset s.hardReset

theorem outcomeOf_next {r : Except Refusal State} {t : State} (h : outcomeOf r = .next t) : r = .ok t := by
  cases r with
  | ok s =>
    cases h
    rfl
  | error e => cases h

theorem State.editMedium_effect (s : State) (a : OperatorAction) (n : Fin 4) (f : Medium → Medium)
    (hf : ∀ m, f m = { m with writeProtected := (f m).writeProtected, changed := (f m).changed, path := (f m).path }) :
    OperatorEffect s a (s.editMedium n f) := by
  unfold State.editMedium
  split
  · rename_i m hm
    exact .label a n m (f m) hm (hf m) s.savedImage
  · exact .idle a

theorem operate_inv {s t : State} {a : OperatorAction} (h : s.operate a = .next t) : OperatorEffect s a t := by
  unfold State.operate at h
  split_ifs at h
  cases a with
  | mount n m =>
    unfold State.perform at h
    dsimp only at h
    split_ifs at h with hwf
    cases h
    exact .mount _ n m hwf fun _ => rfl
  | loadImage n path file =>
    unfold State.perform at h
    dsimp only at h
    split at h
    · rename_i m hm
      cases h
      exact .mount _ n m (loadImage_wf hm) fun _ => rfl
    · cases h
      exact .eject _ n fun _ => rfl
  | eject n =>
    cases h
    exact .eject _ n fun _ => rfl
  | setWriteProtect n b =>
    cases h
    exact s.editMedium_effect _ n _ fun _ => rfl
  | setPath n path =>
    cases h
    exact s.editMedium_effect _ n _ fun _ => rfl
  | writeDescriptor n t side d =>
    have hok := outcomeOf_next h
    unfold State.writeDescriptor at hok
    split at hok
    · cases hok
    · rename_i m hm
      split at hok
      · cases hok
      · rename_i T hT
        split at hok
        · cases hok
        · rename_i T' hT'
          cases hok
          exact .rewrite n t side d m T T' hm hT hT'
  | save n =>
    have hok := outcomeOf_next h
    unfold State.save at hok
    split at hok
    · cases hok
    · rename_i m hm
      cases hok
      exact .label _ n m { m with changed := false } hm rfl _
  | reset =>
    cases h
    exact .reset

/-- A descriptor-level write leaves the track it replaces in form (R336). -/
theorem Medium.rewriteTrack_wf {c : Config} {m : Medium} {t : Nat} {side : Bool} {d : SectorDescriptor} {T T' : Track}
    (hm : m.formKept c = true) (hT : m.track t side = some T) (hT' : rewriteTrack c m T d = .ok T') :
    T'.bufferOk (m.declLen - c.trackHdr) = true ∧ T'.indexOk c = true := by
  obtain ⟨hgeo, hall⟩ := Medium.formKept_iff.1 hm
  have hcap : c.trackHdr < m.declLen := by
    simp only [Medium.geometryOk, Bool.and_eq_true, decide_eq_true_eq] at hgeo
    obtain ⟨⟨⟨-, hdecl⟩, -⟩, -⟩ := hgeo
    exact hdecl
  exact Machine.rewriteTrack_wf hT' hcap (hall T (Medium.mem_of_track hT)).2

/-- A descriptor-level write leaves the medium in form (R336). -/
theorem Medium.formKept_rewrite {c : Config} {m : Medium} {t : Nat} {side : Bool} {d : SectorDescriptor} {T T' : Track}
    (hm : m.formKept c = true) (hT : m.track t side = some T) (hT' : rewriteTrack c m T d = .ok T') :
    Medium.formKept c { m.setTrack t side T' with changed := true } = true := by
  obtain ⟨hbuf, hidx⟩ := Medium.rewriteTrack_wf hm hT hT'
  exact Medium.formKept_setTrack hm hbuf (Track.indexOk_iff.1 hidx).1

theorem OperatorEffect.inv {s t : State} {a : OperatorAction} (he : OperatorEffect s a t) (h : s.Core)
    (hfuture : s.clk.Future) : t.Inv := by
  cases he with
  | mount a n m hm ha =>
    have hmed := h.setMedium n (m := some { m with changed := false }) fun m' hm' => by
      cases hm'
      exact Medium.formKept_of_wf hm
    exact (Acts.readyEdge .refl).inv hmed hfuture
  | eject a n ha =>
    have hmed := h.setMedium n (m := none) fun m' hm' => by cases hm'
    exact (Acts.readyEdge .refl).inv hmed hfuture
  | label a n m m' hm hm' image =>
    have hmed := h.setMedium n (m := some m') fun m'' hm'' => by
      cases hm''
      rw [hm']
      exact h.form.media n m hm
    refine Acts.inv ?_ hmed hfuture
    exact Acts.lines .refl rfl rfl rfl rfl
  | idle => exact State.inv_iff.2 ⟨h, fun _ => hfuture⟩
  | rewrite n t side d m T T' hm hT hT' =>
    have hmed := h.setMedium n (m := some { m.setTrack t side T' with changed := true }) fun m'' hm'' => by
      cases hm''
      exact Medium.formKept_rewrite (h.form.media n m hm) hT hT'
    exact State.inv_iff.2 ⟨hmed, fun _ => hfuture⟩
  | reset => exact State.inv_iff.2 ⟨h.hardReset, fun _ => hfuture.hardReset⟩

/-- Settles O57, by the cases of a step: acts keep the core of the invariant and the future of the pulses; a Dispatch restores
the future after time has passed; what comes in from outside is checked, loaded or encoded in form. -/
theorem stepKeepsInv : Obligations.StepKeepsInv := by
  unfold Obligations.StepKeepsInv
  intro s t hs hstep
  obtain ⟨hfault, hcase⟩ := step_inv hstep
  have hfuture : s.clk.Future := hs.future hfault
  have hcore : s.Core := (State.inv_iff.1 hs).1
  have hfeed : ∀ script rest, (s.feed script rest).Core := fun _ _ => hcore.congr rfl rfl rfl rfl
  have hunit : ∀ script rest, ({ (s.feed script rest) with inUnit := true } : State).Core :=
    fun _ _ => hcore.congr rfl rfl rfl rfl
  cases hcase with
  | operator a script rest _ h => exact (operate_inv h).inv (hfeed script rest) hfuture
  | held _ h =>
    rw [h]
    exact hcore.advanceBy_inv hfuture _
  | instr i script rest _ h => exact (exec_inv h).2.inv (hfeed script rest) hfuture
  | select n side script rest _ h =>
    rw [h]
    unfold State.selectDrive
    refine (hunit script rest).select_inv hfuture ?_ (fun _ hn => presentDrive_lt hn) true
    rfl
  | reset script rest _ h =>
    rw [h]
    exact State.inv_iff.2 ⟨(hunit script rest).hardReset, fun _ => Clock.Future.hardReset (by exact hfuture)⟩

end Sys2Proof.Machine
end

section
/-! PROOFS. The flow of the sequencer: where each handler goes next, and that a zero-delay chain ends (R55, R147, R458). -/

namespace Sys2Proof.Machine

/-- A bound on the zero-delay transitions that can still follow from a state. The states in which Write Sector writes, which no
such transition enters, stand at the top. -/
def chainRank : OpStatus → Nat
  | .nmi | .opDone => 0
  | .checkVerify | .verifyTrack | .searchStart | .seekingIdam | .seekingDam | .readingData | .writeGap | .readingTrack
  | .writingTrack => 1
  | .typeIStep | .verifySettle | .readingAddressData | .readCrc | .seekingIndexHole => 2
  | .writeTrackDrq => 3
  | .checkWriteProtect => 4
  | .delay => 5
  | .prepare => 6
  | .writingFiller | .writingDam | .writingData | .writeCrc | .writeTrailer => 7

theorem chainRank_le (S : OpStatus) : chainRank S ≤ 7 := by
  cases S <;> decide

/-- How a handler of command `k` for state `op` may end: a Fatal only where the family has no handler; a zero-delay transition
to a handled state of lower rank; a waiting one to a state the command waits in, with room in the ID buffer to read into it. -/
def HandlerEnd.Follows (k : CmdKind) (op : OpStatus) : HandlerEnd → Prop
  | .complete _ => True
  | .fatal _ _ => handles k op = false
  | .goto S d u =>
    handles k S = true ∧ (d = 0 → chainRank S < chainRank op) ∧ (0 < d → waitsIn k S = true) ∧
      (S = .readingAddressData → u.fdc.idIdx < 6)

/-- A command has a handler for every state it waits in. -/
theorem handles_of_waitsIn {k : CmdKind} {S : OpStatus} (h : waitsIn k S = true) : handles k S = true := by
  revert h
  cases k <;> cases S <;> decide

theorem HandlerEnd.Follows.now {k : CmdKind} {op S : OpStatus} (u : State) (hh : handles k S = true)
    (hr : chainRank S < chainRank op) (hid : S ≠ .readingAddressData) : HandlerEnd.Follows k op (.goto S 0 u) :=
  ⟨hh, fun _ => hr, fun h => absurd h (Nat.lt_irrefl 0), fun h => absurd h hid⟩

theorem HandlerEnd.Follows.later {k : CmdKind} {op S : OpStatus} {d : Nat} {u : State} (hd : 0 < d)
    (hw : waitsIn k S = true) (hid : S = .readingAddressData → u.fdc.idIdx < 6) :
    HandlerEnd.Follows k op (.goto S d u) :=
  ⟨handles_of_waitsIn hw, fun h => absurd h (Nat.ne_of_gt hd), fun _ => hw, hid⟩

theorem onlyFor_follows {k : CmdKind} {op : OpStatus} {allowed : Bool} {h : State → HandlerEnd} {s : State}
    (hallowed : handles k op = allowed) (hh : allowed = true → (h s).Follows k op) :
    (onlyFor allowed h s).Follows k op := by
  unfold onlyFor
  split_ifs with ha
  · exact hh ha
  · exact hallowed.trans (by simpa using ha)

/-! ### Which states the commands share -/

theorem CmdKind.states_of_isTypeI {k : CmdKind} (h : k.isTypeI = true) :
    waitsIn k .typeIStep = true ∧ waitsIn k .verifySettle = true ∧ waitsIn k .seekingIdam = true ∧
      handles k .checkVerify = true ∧ handles k .searchStart = true ∧ handles k .verifyTrack = true ∧
      handles k .nmi = true := by
  revert h
  cases k <;> decide

theorem CmdKind.states_of_searches {k : CmdKind} (h : k.searches = true) :
    waitsIn k .seekingIdam = true ∧ waitsIn k .readingAddressData = true ∧ handles k .nmi = true := by
  revert h
  cases k <;> decide

/-! ### The delays are positive (R9, R118, R200) -/

section
variable {s : State} (hl : legalConfig s.cfg = true)
include hl

theorem State.byteDelay_pos : 0 < s.byteDelay := (legalConfig_pos hl).2.2.2.2.1 _

theorem State.stepDelay_pos : 0 < s.stepDelay := (legalConfig_pos hl).2.2.2.2.2.1 s.fdc.cr

theorem State.settleDelay_pos : 0 < s.settleDelay := (legalConfig_pos hl).2.2.2.2.2.2.1

theorem State.writeTrackWindow_pos : 0 < s.cfg.wtWindow * s.byteDelay :=
  Nat.mul_pos (legalConfig_pos hl).2.2.2.2.2.2.2.2.1 (State.byteDelay_pos hl)

/-! ### The handlers -/

omit hl in
theorem onPrepareTypeI_follows {k : CmdKind} (hk : k.isTypeI = true) : (onPrepareTypeI s).Follows k .prepare := by
  obtain ⟨hstep, -⟩ := CmdKind.states_of_isTypeI hk
  exact .now _ (handles_of_waitsIn hstep) (by decide) (by decide)

theorem onPrepareTypeII_follows {k : CmdKind} (hk : k.type = .typeII ∨ k.type = .typeIII) :
    (onPrepareTypeII s).Follows k .prepare := by
  have hdelay : waitsIn k .delay = true ∧ handles k .nmi = true := by
    revert hk
    cases k <;> decide
  unfold onPrepareTypeII
  dsimp only
  split_ifs
  · exact .later (State.settleDelay_pos (s := s.withFdc s.fdc.beginTypeII) hl) hdelay.1 (by simp)
  · exact .now _ (handles_of_waitsIn hdelay.1) (by decide) (by decide)
  · exact .now _ hdelay.2 (by decide) (by decide)

theorem onPrepare_follows : (onPrepare s).Follows s.fdc.cmd .prepare := by
  unfold onPrepare
  split
  · rename_i h
    exact onPrepareTypeI_follows (by simp [CmdKind.isTypeI, h])
  · rename_i h
    exact onPrepareTypeII_follows hl (.inl h)
  · rename_i h
    exact onPrepareTypeII_follows hl (.inr h)
  · rename_i h
    have hk : s.fdc.cmd = .forceInterrupt := by
      revert h
      cases s.fdc.cmd <;> simp [CmdKind.type]
    rw [hk]
    rfl

theorem onRestoreStep_follows (hk : s.fdc.cmd.isTypeI = true) : (onRestoreStep s).Follows s.fdc.cmd .typeIStep := by
  obtain ⟨hstep, -, -, hverify, -, -, hnmi⟩ := CmdKind.states_of_isTypeI hk
  unfold onRestoreStep
  split_ifs
  · exact .now _ hverify (by decide) (by decide)
  · exact .now _ hnmi (by decide) (by decide)
  · exact .later (State.stepDelay_pos hl) hstep (by simp)

theorem onSeekStep_follows (hk : s.fdc.cmd.isTypeI = true) : (onSeekStep s).Follows s.fdc.cmd .typeIStep := by
  obtain ⟨hstep, -, -, hverify, -⟩ := CmdKind.states_of_isTypeI hk
  unfold onSeekStep
  dsimp only
  split_ifs
  · exact .now _ hverify (by decide) (by decide)
  · exact .now _ hverify (by decide) (by decide)
  · exact .later (State.stepDelay_pos hl) hstep (by simp)

theorem onStepStep_follows (hk : s.fdc.cmd.isTypeI = true) : (onStepStep s).Follows s.fdc.cmd .typeIStep := by
  obtain ⟨hstep, -, -, hverify, -⟩ := CmdKind.states_of_isTypeI hk
  unfold onStepStep
  dsimp only
  split
  · exact .now _ hverify (by decide) (by decide)
  · split
    · exact .now _ hverify (by decide) (by decide)
    · exact .later (State.stepDelay_pos hl) hstep (by simp)

theorem onTypeIStep_follows : (onTypeIStep s).Follows s.fdc.cmd .typeIStep := by
  unfold onTypeIStep
  split <;> rename_i h
  · exact onRestoreStep_follows hl (by rw [h]; rfl)
  · exact onSeekStep_follows hl (by rw [h]; rfl)
  · exact onStepStep_follows hl (by rw [h]; rfl)
  · exact onStepStep_follows hl (by rw [h]; rfl)
  · exact onStepStep_follows hl (by rw [h]; rfl)
  · show handles s.fdc.cmd .typeIStep = false
    cases hk : s.fdc.cmd <;> simp_all [handles, CmdKind.isTypeI, CmdKind.type]

theorem onCheckVerify_follows (hk : s.fdc.cmd.isTypeI = true) : (onCheckVerify s).Follows s.fdc.cmd .checkVerify := by
  obtain ⟨-, hsettle, -, -, -, -, hnmi⟩ := CmdKind.states_of_isTypeI hk
  unfold onCheckVerify
  split_ifs
  · exact .later (State.settleDelay_pos hl) hsettle (by simp)
  · exact .now _ hnmi (by decide) (by decide)

omit hl in
theorem onVerifySettle_follows (hk : s.fdc.cmd.isTypeI = true) : (onVerifySettle s).Follows s.fdc.cmd .verifySettle := by
  obtain ⟨-, -, -, -, hsearch, -⟩ := CmdKind.states_of_isTypeI hk
  exact .now _ hsearch (by decide) (by decide)

theorem onVerifyTrack_follows (hk : s.fdc.cmd.isTypeI = true) : (onVerifyTrack s).Follows s.fdc.cmd .verifyTrack := by
  obtain ⟨-, -, hseek, -, -, -, hnmi⟩ := CmdKind.states_of_isTypeI hk
  unfold onVerifyTrack
  split_ifs
  · exact .later (State.byteDelay_pos hl) hseek (by simp)
  · exact .now _ hnmi (by decide) (by decide)
  · exact .later (State.byteDelay_pos hl) hseek (by simp)

omit hl in
theorem onDelay_follows : (onDelay s).Follows s.fdc.cmd .delay := by
  unfold onDelay
  split <;> rename_i h
  case h_6 =>
    show handles s.fdc.cmd .delay = false
    cases hk : s.fdc.cmd <;> simp_all [handles, CmdKind.type]
  all_goals
    rw [h]
    exact .now _ (by decide) (by decide) (by decide)

omit hl in
theorem onCheckWriteProtect_follows (hk : (s.fdc.cmd == .writeSector || s.fdc.cmd == .writeTrack) = true) :
    (onCheckWriteProtect s).Follows s.fdc.cmd .checkWriteProtect := by
  have hcmd : s.fdc.cmd = .writeSector ∨ s.fdc.cmd = .writeTrack := by simpa using hk
  unfold onCheckWriteProtect
  rcases hcmd with h | h <;> rw [h] <;> split <;> exact .now _ (by decide) (by decide) (by decide)

theorem onSearchStart_follows (hk : s.fdc.cmd.searches = true) : (onSearchStart s).Follows s.fdc.cmd .searchStart :=
  .later (State.byteDelay_pos hl) (CmdKind.states_of_searches hk).1 (by simp)

theorem onSeekingIdam_follows (hk : s.fdc.cmd.searches = true) : (onSeekingIdam s).Follows s.fdc.cmd .seekingIdam := by
  obtain ⟨hseek, hread, hnmi⟩ := CmdKind.states_of_searches hk
  unfold onSeekingIdam onExhausted
  dsimp only
  split
  · exact .now _ hnmi (by decide) (by decide)
  · split_ifs
    · exact .later (State.byteDelay_pos hl) hread fun _ => by simp
    · exact .later (State.byteDelay_pos hl) hseek (by simp)

theorem idCompare_follows (hk : s.fdc.cmd = .readSector ∨ s.fdc.cmd = .writeSector) :
    (idCompare s).Follows s.fdc.cmd .readingAddressData := by
  unfold idCompare
  dsimp only
  rcases hk with h | h <;> rw [h] <;> split_ifs <;> exact .later (State.byteDelay_pos hl) (by decide) (by simp)

theorem onReadingAddressData_follows (hk : s.fdc.cmd.searches = true) (hne : s.fdc.cmd ≠ .readAddress) :
    (onReadingAddressData s).Follows s.fdc.cmd .readingAddressData := by
  obtain ⟨-, hread, -⟩ := CmdKind.states_of_searches hk
  unfold onReadingAddressData
  dsimp only
  split_ifs with hroom htype
  · exact .later (State.byteDelay_pos hl) hread fun _ => hroom
  · have htype' : s.fdc.cmd.type = .typeI := htype
    have hk' : s.fdc.cmd.isTypeI = true := by simpa [CmdKind.isTypeI] using htype'
    obtain ⟨-, -, -, -, -, hverify, -⟩ := CmdKind.states_of_isTypeI hk'
    exact .now _ hverify (by decide) (by decide)
  · have htype' : s.fdc.cmd.type ≠ .typeI := htype
    have hcmd : s.readIdByte.fdc.cmd = .readSector ∨ s.readIdByte.fdc.cmd = .writeSector := by
      show s.fdc.cmd = .readSector ∨ s.fdc.cmd = .writeSector
      simpa [CmdKind.searches, CmdKind.isTypeI, htype', hne] using hk
    exact idCompare_follows (s := s.readIdByte) hl hcmd

theorem onReadAddressByte_follows : (onReadAddressByte s).Follows .readAddress .readingAddressData := by
  unfold onReadAddressByte endReadAddress
  dsimp only
  split
  · rename_i hroom
    exact .later (State.byteDelay_pos hl) (by decide) fun _ => hroom
  · exact .now _ (by decide) (by decide) (by decide)

theorem onSeekingDam_follows : (onSeekingDam s).Follows .readSector .seekingDam := by
  unfold onSeekingDam
  dsimp only
  split_ifs
  · exact .later (State.byteDelay_pos hl) (by decide) (by simp)
  · exact .now _ (by decide) (by decide) (by decide)
  · exact .later (State.byteDelay_pos hl) (by decide) (by simp)

theorem onReadingData_follows : (onReadingData s).Follows .readSector .readingData := by
  unfold onReadingData
  dsimp only
  split_ifs <;> exact .later (State.byteDelay_pos hl) (by decide) (by simp)

omit hl in
theorem nextRecord_follows {k : CmdKind} {op : OpStatus} (hk : k = .readSector ∨ k = .writeSector) (hop : 1 < chainRank op) :
    (nextRecord s).Follows k op := by
  unfold nextRecord
  rcases hk with rfl | rfl <;> split_ifs
  · exact .now _ (by decide) hop (by decide)
  · exact .now _ (by decide) (Nat.lt_of_succ_lt hop) (by decide)
  · exact .now _ (by decide) hop (by decide)
  · exact .now _ (by decide) (Nat.lt_of_succ_lt hop) (by decide)

theorem onReadCrc_follows : (onReadCrc s).Follows .readSector .readCrc := by
  unfold onReadCrc
  dsimp only
  split_ifs
  · exact .later (State.byteDelay_pos hl) (by decide) (by simp)
  · exact .now _ (by decide) (by decide) (by decide)
  · exact nextRecord_follows (.inl rfl) (by decide)

theorem onWriteGap_follows : (onWriteGap s).Follows .writeSector .writeGap := by
  unfold onWriteGap
  dsimp only
  split_ifs
  · exact .later (State.byteDelay_pos hl) (by decide) (by simp)
  · exact .now _ (by decide) (by decide) (by decide)
  · exact .later (State.byteDelay_pos hl) (by decide) (by simp)
  · exact .later (State.byteDelay_pos hl) (by decide) (by simp)
  · exact .now _ (by decide) (by decide) (by decide)
  · exact .later (State.byteDelay_pos hl) (by decide) (by simp)

theorem onWritingFiller_follows : (onWritingFiller s).Follows .writeSector .writingFiller := by
  unfold onWritingFiller
  dsimp only
  split_ifs <;> exact .later (State.byteDelay_pos hl) (by decide) (by simp)

theorem onWritingDam_follows : (onWritingDam s).Follows .writeSector .writingDam := by
  unfold onWritingDam
  dsimp only
  split_ifs <;> exact .later (State.byteDelay_pos hl) (by decide) (by simp)

theorem onWritingData_follows : (onWritingData s).Follows .writeSector .writingData := by
  unfold onWritingData
  dsimp only
  split_ifs <;> exact .later (State.byteDelay_pos hl) (by decide) (by simp)

theorem onWriteCrc_follows : (onWriteCrc s).Follows .writeSector .writeCrc := by
  unfold onWriteCrc
  split_ifs <;> exact .later (State.byteDelay_pos hl) (by decide) (by simp)

omit hl in
/-- The first slot is at the next index pulse, which may be now (R279). -/
theorem onSeekingIndexHole_follows (hk : s.fdc.cmd = .readTrack ∨ s.fdc.cmd = .writeTrack) :
    (onSeekingIndexHole s).Follows s.fdc.cmd .seekingIndexHole := by
  unfold onSeekingIndexHole
  rcases hk with h | h <;> rw [h] <;> exact ⟨by decide, fun _ => by decide, fun _ => by decide, by simp⟩

theorem onReadingTrack_follows : (onReadingTrack s).Follows .readTrack .readingTrack := by
  unfold onReadingTrack
  dsimp only
  split_ifs
  · exact .later (State.byteDelay_pos hl) (by decide) (by simp)
  · exact .now _ (by decide) (by decide) (by decide)

theorem onWriteTrackDrq_follows : (onWriteTrackDrq s).Follows .writeTrack .writeTrackDrq := by
  unfold onWriteTrackDrq
  split_ifs
  · exact .later (State.writeTrackWindow_pos hl) (by decide) (by simp)
  · exact .now _ (by decide) (by decide) (by decide)
  · exact .now _ (by decide) (by decide) (by decide)

theorem endWriteSlot_follows (consumed : Bool) : (endWriteSlot s consumed).Follows .writeTrack .writingTrack := by
  unfold endWriteSlot
  dsimp only
  split
  · exact .later (State.byteDelay_pos (s := s.withFdc _) hl) (by decide) (by simp)
  · exact .now _ (by decide) (by decide) (by decide)

theorem onWritingTrack_follows : (onWritingTrack s).Follows .writeTrack .writingTrack := by
  have hput : ∀ v, (s.wtPut v).cfg = s.cfg := fun v => (Moves.wtPut .refl v).frame.cfg
  have hbyte : (s.noteLost.wtByte s.hostByte).cfg = s.cfg := ((Moves.noteLost .refl).wtByte _).frame.cfg
  unfold onWritingTrack
  split
  · exact endWriteSlot_follows (by rw [State.withFdc_cfg, hput]; exact hl) _
  · exact endWriteSlot_follows (by rw [hbyte]; exact hl) _

/-- Where the handler of any state goes next (R148). -/
theorem runHandler_follows : (runHandler s).Follows s.fdc.cmd s.fdc.op := by
  have hcmd : ∀ k : CmdKind, (s.fdc.cmd == k) = true → s.fdc.cmd = k := fun k h => by simpa using h
  unfold runHandler
  cases s.fdc.op with
  | prepare => exact onPrepare_follows hl
  | delay => exact onDelay_follows
  | checkWriteProtect => exact onlyFor_follows rfl onCheckWriteProtect_follows
  | seekingIdam => exact onlyFor_follows rfl (onSeekingIdam_follows hl)
  | readingAddressData =>
    dsimp only
    split
    · rename_i h
      rw [h]
      exact onReadAddressByte_follows hl
    · rename_i h
      exact onlyFor_follows rfl fun hk => onReadingAddressData_follows hl hk h
  | verifyTrack => exact onlyFor_follows rfl (onVerifyTrack_follows hl)
  | seekingDam => exact onlyFor_follows rfl fun hk => hcmd _ hk ▸ onSeekingDam_follows hl
  | readingData => exact onlyFor_follows rfl fun hk => hcmd _ hk ▸ onReadingData_follows hl
  | writingData => exact onlyFor_follows rfl fun hk => hcmd _ hk ▸ onWritingData_follows hl
  | readCrc => exact onlyFor_follows rfl fun hk => hcmd _ hk ▸ onReadCrc_follows hl
  | writeCrc => exact onlyFor_follows rfl fun hk => hcmd _ hk ▸ onWriteCrc_follows hl
  | nmi => exact onlyFor_follows rfl fun _ => trivial
  | opDone => exact (rfl : handles s.fdc.cmd .opDone = false)
  | typeIStep => exact onTypeIStep_follows hl
  | checkVerify => exact onlyFor_follows rfl (onCheckVerify_follows hl)
  | verifySettle => exact onlyFor_follows rfl onVerifySettle_follows
  | searchStart => exact onlyFor_follows rfl (onSearchStart_follows hl)
  | writeGap => exact onlyFor_follows rfl fun hk => hcmd _ hk ▸ onWriteGap_follows hl
  | writingFiller => exact onlyFor_follows rfl fun hk => hcmd _ hk ▸ onWritingFiller_follows hl
  | writingDam => exact onlyFor_follows rfl fun hk => hcmd _ hk ▸ onWritingDam_follows hl
  | writeTrailer =>
    exact onlyFor_follows rfl fun hk => hcmd _ hk ▸ nextRecord_follows (s := s.writeLogical 0xFF) (.inr rfl) (by decide)
  | writeTrackDrq => exact onlyFor_follows rfl fun hk => hcmd _ hk ▸ onWriteTrackDrq_follows hl
  | seekingIndexHole =>
    refine onlyFor_follows rfl fun hk => onSeekingIndexHole_follows ?_
    simpa using hk
  | readingTrack => exact onlyFor_follows rfl fun hk => hcmd _ hk ▸ onReadingTrack_follows hl
  | writingTrack => exact onlyFor_follows rfl fun hk => hcmd _ hk ▸ onWritingTrack_follows hl

end

end Sys2Proof.Machine
end

section
/-! PROOFS. The bytes Write Sector can change: its writing handlers write the byte under the head, the others and the
zero-delay chains after them write nothing (R259). -/

namespace Sys2Proof.Machine

/-! ### A zero-delay transition -/

/-- The state in which the handler of `S` runs at once (R147, R148): under a fresh handle, the command's pulse forgotten. -/
def State.entering (s : State) (S : OpStatus) : State :=
  s.takeHandle.withFdc { s.fdc with op := S, cmdPulse := none }

theorem gotoNow_busy {s : State} (h : s.fdc.busy = true) (S : OpStatus) :
    gotoNow (s.withFdc { s.fdc with op := S }) = runHandler (s.entering S) :=
  fdcStepEnd_busy (s := (s.withFdc { s.fdc with op := S }).takeHandle) h

/-- A handler keeps a running command running. -/
theorem runHandler_frame (s : State) : HandlerFrame s (runHandler s).state := (runHandler_moves s).frame

/-! ### Bytes and drives -/

theorem State.trackByte_congr {s u : State} (h : u.drives = s.drives) (n : Fin 4) (t : Nat) (side : Bool) (pos : Nat) :
    u.trackByte n t side pos = s.trackByte n t side pos := by
  simp only [State.trackByte, State.drive, h]

theorem State.setError_drives (s : State) (e : ErrorFlag) : (s.setError e).drives = s.drives := by
  rw [State.setError_eq]
  rfl

theorem idCompare_drives (s : State) : (idCompare s).state.drives = s.drives := by
  unfold idCompare
  split_ifs
  · rfl
  · rfl
  · dsimp only
    split <;> rfl

theorem onWriteGap_drives (s : State) : (onWriteGap s).state.drives = s.drives := by
  unfold onWriteGap
  dsimp only
  split_ifs
  · rfl
  · exact State.setError_drives _ _
  · rfl
  · rfl
  · exact State.setError_drives _ _
  · rfl

/-- Outside its writing states Write Sector changes no drive. -/
theorem runHandler_writeSector_drives {s : State} (hcmd : s.fdc.cmd = .writeSector) (hrank : chainRank s.fdc.op < 7) :
    (runHandler s).state.drives = s.drives := by
  unfold runHandler onPrepare onTypeIStep onlyFor
  rw [hcmd]
  revert hrank
  cases s.fdc.op with
  | writingFiller | writingDam | writingData | writeCrc | writeTrailer => exact fun h => absurd h (by decide)
  | prepare =>
    intro _
    show (onPrepareTypeII s).state.drives = s.drives
    unfold onPrepareTypeII
    dsimp only
    split_ifs <;> rfl
  | delay =>
    intro _
    show (onDelay s).state.drives = s.drives
    unfold onDelay
    rw [hcmd]
    rfl
  | checkWriteProtect =>
    intro _
    show (onCheckWriteProtect s).state.drives = s.drives
    unfold onCheckWriteProtect
    rw [hcmd]
    split
    · exact State.setError_drives _ _
    · rfl
  | seekingIdam =>
    intro _
    show (onSeekingIdam s).state.drives = s.drives
    unfold onSeekingIdam
    dsimp only
    split_ifs
    · exact State.setError_drives _ _
    · rfl
    · rfl
  | readingAddressData =>
    intro _
    show (onReadingAddressData s).state.drives = s.drives
    unfold onReadingAddressData
    dsimp only
    split_ifs
    · rfl
    · rfl
    · exact idCompare_drives _
  | writeGap =>
    intro _
    exact onWriteGap_drives s
  | verifyTrack | seekingDam | readingData | readCrc | nmi | opDone | typeIStep | checkVerify | verifySettle | searchStart
  | writeTrackDrq | seekingIndexHole | readingTrack | writingTrack => exact fun _ => rfl

/-- What stays when nothing but the byte under the head is written. -/
def OutsideHeadSame (s u : State) : Prop :=
  ∀ n t side pos, ¬ s.underHead s.stride n t side pos → u.trackByte n t side pos = s.trackByte n t side pos

theorem OutsideHeadSame.of_drives {s u : State} (h : u.drives = s.drives) : OutsideHeadSame s u :=
  fun n t side pos _ => State.trackByte_congr h n t side pos

/-- After `writeLogical` from a state with the same head and drives. -/
theorem OutsideHeadSame.of_writeLogical {s u : State} (hform : s.Form) {f : Fdc} {v : Byte}
    (hf : f = { f with
      selDrive := s.fdc.selDrive, side := s.fdc.side, dd := s.fdc.dd, cursor := s.fdc.cursor })
    (hu : u.drives = ((s.withFdc f).writeLogical v).drives) : OutsideHeadSame s u := by
  intro n t side pos hpos
  have hform' : (s.withFdc f).AllMedia fun m => m.formKept (s.withFdc f).cfg = true := hform.media
  have hhead : ¬ (s.withFdc f).underHead (s.withFdc f).stride n t side pos := by
    rw [hf]
    exact hpos
  rw [State.trackByte_congr hu, (State.trackByte_writeLogical hform' v n t side pos).1 hhead]
  rfl

/-- No handler of Write Sector changes a byte that is not under the head. -/
theorem runHandler_writeSector_outside {s : State} (hcmd : s.fdc.cmd = .writeSector) (hform : s.Form) :
    OutsideHeadSame s (runHandler s).state := by
  have hwrite : ∀ {u : State} (v : Byte), u.drives = (s.writeLogical v).drives → OutsideHeadSame s u :=
    fun _ hu => .of_writeLogical hform (f := s.fdc) rfl hu
  by_cases hrank : chainRank s.fdc.op < 7
  · exact .of_drives (runHandler_writeSector_drives hcmd hrank)
  unfold runHandler onlyFor
  rw [hcmd]
  revert hrank
  cases s.fdc.op with
  | writingFiller =>
    intro _
    refine hwrite 0x00 ?_
    show (onWritingFiller s).state.drives = _
    unfold onWritingFiller
    dsimp only
    split_ifs <;> rfl
  | writingDam =>
    intro _
    show OutsideHeadSame s (onWritingDam s).state
    unfold onWritingDam
    split_ifs <;> exact hwrite _ rfl
  | writingData =>
    intro _
    have hlost : s.noteLost = s.withFdc (if s.fdc.drq then reports s.fdc .lostData else s.fdc) := State.noteLost_eq s
    refine .of_writeLogical hform (f := if s.fdc.drq then reports s.fdc .lostData else s.fdc) (v := s.hostByte) ?_ ?_
    · split_ifs
      · rw [reports_shape]
      · rfl
    · rw [← hlost]
      show (onWritingData s).state.drives = _
      unfold onWritingData
      dsimp only
      split_ifs <;> rfl
  | writeCrc =>
    intro _
    show OutsideHeadSame s (onWriteCrc s).state
    unfold onWriteCrc
    split_ifs <;> exact hwrite _ rfl
  | writeTrailer =>
    intro _
    refine hwrite 0xFF ?_
    show (nextRecord _).state.drives = _
    unfold nextRecord
    split_ifs <;> rfl
  | _ => exact fun h => absurd (by decide) h

/-! ### The chains -/

theorem State.gotoAfter_drives (s : State) (d : Nat) : (s.gotoAfter d).drives = s.drives := by
  rw [gotoAfter_eq]

/-- A zero-delay chain of Write Sector changes no drive. -/
theorem finish_writeSector_drives (fuel : Nat) : ∀ (e : HandlerEnd) (op : OpStatus), e.Follows .writeSector op →
    legalConfig e.state.cfg = true → e.state.fdc.cmd = .writeSector → e.state.fdc.busy = true →
    (finish fuel e).drives = e.state.drives := by
  induction fuel with
  | zero =>
    intro e op _ _ _ _
    cases e with
    | goto S d u =>
      unfold finish
      split_ifs
      · rfl
      · exact State.gotoAfter_drives _ _
    | complete u => rfl
    | fatal r u => rfl
  | succ fuel ih =>
    intro e op hfollows hl hcmd hbusy
    cases e with
    | goto S d u =>
      obtain ⟨-, hnow, -⟩ := hfollows
      unfold finish
      split_ifs with hd
      · have hrank : chainRank S < 7 := (hnow hd).trans_le (chainRank_le op)
        have hframe := runHandler_frame (u.entering S)
        rw [gotoNow_busy (s := u) hbusy, ih _ S (by
            have := runHandler_follows (s := u.entering S) hl
            rwa [show (u.entering S).fdc.cmd = .writeSector from hcmd] at this)
          (hframe.cfg ▸ hl) (hframe.keeps.cmd.trans hcmd) (hframe.keeps.busy hbusy)]
        exact runHandler_writeSector_drives hcmd hrank
      · exact State.gotoAfter_drives _ _
    | complete u => rfl
    | fatal r u => rfl

/-- Settles O33: the first handler of the transition writes the byte under the head at most, the chain after it nothing. -/
theorem sectorWriteFrame : Obligations.SectorWriteFrame := by
  unfold Obligations.SectorWriteFrame
  intro S s t hinv hbusy hcmd hexec n tr side pos hpos
  obtain ⟨-, heffect⟩ := exec_inv hexec
  cases heffect with
  | command _ _ hi | port _ _ _ hi => cases hi
  | goto =>
    have hentry : s.goto S 0 = finish 15 (runHandler (s.entering S)) := by
      show finish (15 + 1) (.goto S 0 s) = _
      rw [finish_goto_zero, gotoNow_busy hbusy]
    have hframe := runHandler_frame (s.entering S)
    have hfollows := runHandler_follows (s := s.entering S) hinv.legal
    rw [show (s.entering S).fdc.cmd = .writeSector from hcmd] at hfollows
    rw [hentry, State.trackByte_congr (finish_writeSector_drives 15 _ S hfollows (hframe.cfg ▸ hinv.legal)
      (hframe.keeps.cmd.trans hcmd) (hframe.keeps.busy hbusy))]
    exact runHandler_writeSector_outside (s := s.entering S) hcmd ⟨hinv.heads, hinv.media⟩ n tr side pos hpos

end Sys2Proof.Machine
end

section
/-! PROOFS. The sequencer's invariant: which pulse entry each field names, the chain of a running command, and that every step
but a raw scheduler call keeps it (R57, R153, R458). -/

namespace Sys2Proof.Machine

/-! ### Owned pulse entries (R57, R153 (b)) -/

/-- Every live entry of the block's own callbacks is the one `owner` names, so there is at most one of each; those of FdcStep
and MotorOff fire once; handles are distinct and below the counter. -/
structure Clock.OwnedBy (k : Clock) (owner : Callback → Option Nat) : Prop where
  named : ∀ e ∈ k.pulses, e.expired = false → e.cb ≠ .external → owner e.cb = some e.handle
  once : ∀ e ∈ k.pulses, e.expired = false → e.cb = .fdcStep ∨ e.cb = .motorOff → e.periodic = false
  distinct : k.pulses.Pairwise fun a b => a.handle ≠ b.handle
  fresh : ∀ e ∈ k.pulses, e.handle < k.nextHandle

/-- An owner that agrees wherever one is named names the same entries. -/
theorem Clock.OwnedBy.mono {k : Clock} {o o' : Callback → Option Nat} (h : k.OwnedBy o)
    (ho : ∀ c, o c ≠ none → o' c = o c) : k.OwnedBy o' := by
  refine { h with named := fun e he hlive hext => ?_ }
  have hnamed := h.named e he hlive hext
  rw [ho _ (by rw [hnamed]; simp), hnamed]

/-- Fewer entries, or expired ones, are owned as before. -/
theorem Clock.OwnedBy.of_pulses {k k' : Clock} {o o' : Callback → Option Nat} (h : k.OwnedBy o)
    (hnext : k.nextHandle ≤ k'.nextHandle)
    (hold : ∀ x ∈ k'.pulses, ∃ e ∈ k.pulses, x.handle = e.handle ∧
      (x.expired = false → e.expired = false ∧ x.cb = e.cb ∧ x.periodic = e.periodic ∧ (x.cb ≠ .external → o' x.cb = o x.cb)))
    (hdistinct : k'.pulses.Pairwise fun a b => a.handle ≠ b.handle) : k'.OwnedBy o' where
  named x hx hlive hext := by
    obtain ⟨e, he, hhandle, hrest⟩ := hold x hx
    obtain ⟨hlive', hcb, -, ho⟩ := hrest hlive
    rw [ho hext, hhandle, hcb]
    exact h.named e he hlive' (hcb ▸ hext)
  once x hx hlive hcb' := by
    obtain ⟨e, he, -, hrest⟩ := hold x hx
    obtain ⟨hlive', hcb, hper, -⟩ := hrest hlive
    rw [hper]
    exact h.once e he hlive' (hcb ▸ hcb')
  distinct := hdistinct
  fresh x hx := by
    obtain ⟨e, he, hhandle, -⟩ := hold x hx
    rw [hhandle]
    exact (h.fresh e he).trans_le hnext

theorem Clock.OwnedBy.drop {k : Clock} {o : Callback → Option Nat} (h : k.OwnedBy o) : k.dropExpired.OwnedBy o :=
  h.of_pulses (Nat.le_refl _)
    (fun x hx => ⟨x, List.mem_of_mem_filter hx, rfl, fun hlive => ⟨hlive, rfl, rfl, fun _ => rfl⟩⟩)
    (h.distinct.sublist List.filter_sublist)

theorem State.pairwise_expirePulse {s : State} (n : Nat)
    (h : s.clk.pulses.Pairwise fun a b => a.handle ≠ b.handle) :
    (s.expirePulse n).clk.pulses.Pairwise fun a b => a.handle ≠ b.handle := by
  rw [State.expirePulse_clk]
  refine h.map _ fun a b hab => ?_
  split_ifs <;> exact hab

theorem Clock.OwnedBy.expire {s : State} {o : Callback → Option Nat} (h : s.clk.OwnedBy o) (n : Nat) :
    (s.expirePulse n).clk.OwnedBy o := by
  refine h.of_pulses (Nat.le_refl _) (fun x hx => ?_) (s.pairwise_expirePulse n h.distinct)
  obtain ⟨e, he, hxe, hlive⟩ := State.mem_expirePulse hx
  refine ⟨e, he, by rw [hxe], fun hx' => ?_⟩
  obtain ⟨rfl, -⟩ := hlive hx'
  exact ⟨hx', rfl, rfl, fun _ => rfl⟩

/-- After the owned entry of `cb` is expired, `cb` may own nothing. -/
theorem Clock.OwnedBy.expireOwner {s : State} {o o' : Callback → Option Nat} (h : s.clk.OwnedBy o) {cb : Callback}
    (ho : ∀ c, c ≠ cb → o' c = o c) : (s.expireOpt (o cb)).clk.OwnedBy o' := by
  cases hcb : o cb with
  | none =>
    refine h.mono fun c hc => ho c ?_
    rintro rfl
    exact hc hcb
  | some n =>
    refine h.of_pulses (Nat.le_refl _) (fun x hx => ?_) (s.pairwise_expirePulse n h.distinct)
    obtain ⟨e, he, hxe, hlive⟩ := State.mem_expirePulse hx
    refine ⟨e, he, by rw [hxe], fun hx' => ?_⟩
    obtain ⟨rfl, hne⟩ := hlive hx'
    refine ⟨hx', rfl, rfl, fun hext => ho _ ?_⟩
    rintro rfl
    have hnamed := h.named x he hx' hext
    rw [hcb] at hnamed
    exact hne (Option.some.inj hnamed).symm

/-- A new entry of a callback that owns nothing, under a fresh handle (R143). -/
theorem Clock.OwnedBy.insert {s : State} {o o' : Callback → Option Nat} (h : s.clk.OwnedBy o) {cb : Callback}
    {delay period : Nat} {periodic : Bool} (hnone : cb ≠ .external → o cb = none)
    (honce : cb = .fdcStep ∨ cb = .motorOff → periodic = false) (ho : ∀ c, c ≠ cb → o' c = o c)
    (hnew : cb ≠ .external → o' cb = some s.clk.nextHandle) :
    (s.takeHandle.insertPulse s.clk.nextHandle cb delay periodic period).clk.OwnedBy o' where
  named := by
    simp only [State.insertPulse_clk, List.forall_mem_append, List.forall_mem_singleton]
    refine ⟨fun e he hlive hext => ?_, fun _ => hnew⟩
    have hnamed := h.named e he hlive hext
    rw [ho _ ?_, hnamed]
    intro hcb
    rw [hcb, hnone (hcb ▸ hext)] at hnamed
    cases hnamed
  once := by
    simp only [State.insertPulse_clk, List.forall_mem_append, List.forall_mem_singleton]
    exact ⟨h.once, fun _ => honce⟩
  distinct := by
    simp only [State.insertPulse_clk, List.pairwise_append, List.forall_mem_singleton]
    exact ⟨h.distinct, List.pairwise_singleton _ _, fun e he => Nat.ne_of_lt (h.fresh e he)⟩
  fresh := by
    simp only [State.insertPulse_clk, List.forall_mem_append, List.forall_mem_singleton]
    exact ⟨fun e he => Nat.lt_succ_of_lt (h.fresh e he), Nat.lt_succ_self _⟩

theorem handle_ne_of_mem_erase {l : List Pulse} (h : l.Pairwise fun a b => a.handle ≠ b.handle) {e x : Pulse}
    (he : e ∈ l) (hx : x ∈ l.erase e) : x.handle ≠ e.handle := by
  have hcons : (e :: l.erase e).Pairwise fun a b => a.handle ≠ b.handle :=
    (List.perm_cons_erase he).pairwise h fun hab => hab.symm
  exact ((List.pairwise_cons.1 hcons).1 x hx).symm

/-- A live entry that fires for the last time leaves its callback owning nothing; one that is armed again stays owned. -/
theorem Clock.OwnedBy.take {k : Clock} {o o' : Callback → Option Nat} (h : k.OwnedBy o) {e : Pulse} (he : e ∈ k.pulses)
    (hlive : e.expired = false) (ho : ∀ c, c ≠ e.cb ∨ e.periodic = true → o' c = o c) : (k.take e).OwnedBy o' := by
  refine h.of_pulses (by rw [Clock.take_nextHandle]) (fun x hx => ?_) ?_
  · rw [Clock.take_pulses, List.mem_append] at hx
    rcases hx with hx | hx
    · have hmem := List.mem_of_mem_erase hx
      refine ⟨x, hmem, rfl, fun hlive' => ⟨hlive', rfl, rfl, fun hext => ho _ (.inl fun hcb => ?_)⟩⟩
      have hx' := h.named x hmem hlive' hext
      have he' := h.named e he hlive (hcb ▸ hext)
      rw [hcb, he'] at hx'
      exact handle_ne_of_mem_erase h.distinct he hx (Option.some.inj hx').symm
    · split_ifs at hx with hper
      · rw [List.mem_singleton.1 hx]
        exact ⟨e, he, rfl, fun hlive' => ⟨hlive', rfl, rfl, fun _ => ho _ (.inr hper)⟩⟩
      · cases hx
  · rw [Clock.take_pulses, List.pairwise_append]
    refine ⟨h.distinct.sublist List.erase_sublist, ?_, fun x hx y hy => ?_⟩
    · split_ifs
      · exact List.pairwise_singleton _ _
      · exact List.Pairwise.nil
    · split_ifs at hy
      · rw [List.mem_singleton.1 hy]
        exact handle_ne_of_mem_erase (e := e) h.distinct he hx
      · cases hy

/-! ### The state between two steps, and between two handlers of a chain -/

/-- The handles the fields name (R57, R54, R63), with `command` for the command's. -/
def State.owner (s : State) (command : Option Nat) : Callback → Option Nat
  | .fdcStep => command
  | .motorOff => s.motorPulse
  | .indexIrq => s.fdc.indexPulse
  | .external => none

/-- The sequencer's invariant, without a Fatal. -/
structure State.Orderly (s : State) : Prop where
  fault : s.fault = none
  owned : s.clk.OwnedBy (s.owner s.fdc.cmdPulse)
  idle : s.fdc.busy = false → s.fdc.op = .opDone ∧ s.clk.OwnedBy (s.owner none)
  waiting : s.fdc.busy = true → waitsIn s.fdc.cmd s.fdc.op = true
  idBuffer : s.fdc.op = .readingAddressData → s.fdc.idIdx < 6

theorem State.orderly_of_seqInv {s : State} (h : s.SeqInv) (hfault : s.fault = none) : s.Orderly := by
  have howned : s.clk.OwnedBy (s.owner s.fdc.cmdPulse) := by
    refine ⟨fun e he hlive hext => ?_, fun e he hlive hcb => ?_, h.distinct, h.fresh⟩
    · cases hcb : e.cb with
      | fdcStep => exact (h.command e he ⟨hlive, hcb⟩).1
      | motorOff => exact (h.motor e he ⟨hlive, hcb⟩).1
      | indexIrq => exact h.index e he ⟨hlive, hcb⟩
      | external => exact absurd hcb hext
    · rcases hcb with hcb | hcb
      · exact (h.command e he ⟨hlive, hcb⟩).2
      · exact (h.motor e he ⟨hlive, hcb⟩).2
  refine ⟨hfault, howned, fun hidle => ⟨(h.idle hidle).1, ?_⟩, h.waiting, h.idBuffer⟩
  refine { howned with named := fun e he hlive hext => ?_ }
  have hnamed := howned.named e he hlive hext
  cases hcb : e.cb with
  | fdcStep => exact absurd ⟨hlive, hcb⟩ ((h.idle hidle).2 e he)
  | motorOff | indexIrq | external => rwa [hcb] at hnamed

theorem State.Orderly.seqInv {s : State} (h : s.Orderly) : s.SeqInv where
  idle hidle := ⟨(h.idle hidle).1, fun e he hlive => by
    have hnamed := (h.idle hidle).2.named e he hlive.1 (by rw [hlive.2]; decide)
    rw [hlive.2] at hnamed
    cases hnamed⟩
  waiting := h.waiting
  command e he hlive := by
    have hnamed := h.owned.named e he hlive.1 (by rw [hlive.2]; decide)
    rw [hlive.2] at hnamed
    exact ⟨hnamed, h.owned.once e he hlive.1 (.inl hlive.2)⟩
  motor e he hlive := by
    have hnamed := h.owned.named e he hlive.1 (by rw [hlive.2]; decide)
    rw [hlive.2] at hnamed
    exact ⟨hnamed, h.owned.once e he hlive.1 (.inr hlive.2)⟩
  index e he hlive := by
    have hnamed := h.owned.named e he hlive.1 (by rw [hlive.2]; decide)
    rw [hlive.2] at hnamed
    exact hnamed
  distinct := h.owned.distinct
  fresh := h.owned.fresh
  idBuffer := h.idBuffer

/-- Orderliness depends on the clock, the named pulses and the sequencer's fields alone. -/
theorem State.Orderly.congr {s u : State} (h : s.Orderly) (hclk : u.clk = s.clk) (hfault : u.fault = s.fault)
    (hmotor : u.motorPulse = s.motorPulse)
    (hfdc : u.fdc = { u.fdc with
      busy := s.fdc.busy, op := s.fdc.op, cmd := s.fdc.cmd, cmdPulse := s.fdc.cmdPulse, indexPulse := s.fdc.indexPulse,
      idIdx := s.fdc.idIdx }) : u.Orderly := by
  have howner : ∀ command, u.owner command = s.owner command := by
    intro command
    funext cb
    cases cb
    · rfl
    · exact hmotor
    · show u.fdc.indexPulse = s.fdc.indexPulse
      rw [hfdc]
    · rfl
  constructor
  · rw [hfault, h.fault]
  · rw [hclk, howner, hfdc]
    exact h.owned
  · rw [hclk, howner, hfdc]
    exact h.idle
  · rw [hfdc]
    exact h.waiting
  · rw [hfdc]
    exact h.idBuffer

/-- What a handler works in: no entry of the command's pulse is live, no Fatal was raised, the parameters are legal. -/
structure State.InChain (s : State) : Prop where
  legal : legalConfig s.cfg = true
  fault : s.fault = none
  owned : s.clk.OwnedBy (s.owner none)

theorem State.InChain.of_frame {s u : State} (h : s.InChain) (hframe : HandlerFrame s u) : u.InChain := by
  have howner : u.owner none = s.owner none := by
    funext cb
    cases cb
    · rfl
    · exact hframe.motorPulse
    · exact hframe.keeps.indexPulse
    · rfl
  refine ⟨hframe.cfg ▸ h.legal, hframe.fault.trans h.fault, ?_⟩
  rw [hframe.clk, howner]
  exact h.owned

theorem State.InChain.entering {s : State} (h : s.InChain) (S : OpStatus) : (s.entering S).InChain :=
  ⟨h.legal, h.fault, { h.owned with fresh := fun e he => Nat.lt_succ_of_lt (h.owned.fresh e he) }⟩

theorem State.InChain.owned_any {s : State} (h : s.InChain) (command : Option Nat) : s.clk.OwnedBy (s.owner command) := by
  refine h.owned.mono fun c hc => ?_
  cases c with
  | fdcStep => exact absurd rfl hc
  | motorOff | indexIrq | external => rfl

/-- A completed command is in order (R410). -/
theorem State.InChain.complete {s : State} (h : s.InChain) : s.complete.Orderly where
  fault := h.fault
  owned := h.owned_any s.fdc.cmdPulse
  idle _ := ⟨rfl, h.owned⟩
  waiting hbusy := absurd hbusy (by simp)
  idBuffer hop := absurd hop (by simp)

/-- A command that waits is in order (R147). -/
theorem State.InChain.gotoAfter {s : State} (h : s.InChain) {S : OpStatus} {d : Nat} (hbusy : s.fdc.busy = true)
    (hwait : waitsIn s.fdc.cmd S = true) (hid : S = .readingAddressData → s.fdc.idIdx < 6) :
    ((s.withFdc { s.fdc with op := S }).gotoAfter d).Orderly where
  fault := h.fault
  owned := by
    refine Clock.OwnedBy.insert (s := s.withFdc { s.fdc with op := S }) (cb := .fdcStep) h.owned (fun _ => rfl)
      (fun _ => rfl) (fun c hc => ?_) fun _ => rfl
    cases c with
    | fdcStep => exact absurd rfl hc
    | motorOff | indexIrq | external => rfl
  idle hidle := absurd (hidle.symm.trans hbusy) Bool.false_ne_true
  waiting _ := hwait
  idBuffer := hid

/-- Carrying out the ending of a running command's handler: the zero-delay chain falls in rank, so it ends in a completion or
in a state the command waits in, without a Fatal (R458). -/
theorem finish_orderly (fuel : Nat) : ∀ (e : HandlerEnd) (op : OpStatus), e.Follows e.state.fdc.cmd op →
    handles e.state.fdc.cmd op = true → chainRank op ≤ fuel → e.state.fdc.busy = true → e.state.InChain →
    (finish fuel e).Orderly := by
  induction fuel with
  | zero =>
    intro e op hfollows hhandles hrank hbusy hchain
    cases e with
    | goto S d u =>
      obtain ⟨-, hnow, hlater, hid⟩ := hfollows
      have hd : 0 < d := Nat.pos_of_ne_zero fun h => by
        have := hnow h
        omega
      rw [finish_goto_pos 0 S u hd]
      exact hchain.gotoAfter hbusy (hlater hd) hid
    | complete u => exact hchain.complete
    | fatal r u =>
      have hnone : handles u.fdc.cmd op = false := hfollows
      exact absurd (hnone.symm.trans hhandles) Bool.false_ne_true
  | succ fuel ih =>
    intro e op hfollows hhandles hrank hbusy hchain
    cases e with
    | goto S d u =>
      obtain ⟨hS, hnow, hlater, hid⟩ := hfollows
      rcases Nat.eq_zero_or_pos d with rfl | hd
      · have hlt := hnow rfl
        have hframe := runHandler_frame (u.entering S)
        have hcmd : (runHandler (u.entering S)).state.fdc.cmd = u.fdc.cmd := hframe.keeps.cmd
        rw [finish_goto_zero, gotoNow_busy (s := u) hbusy]
        refine ih _ S ?_ (by rw [hcmd]; exact hS) (by omega) (hframe.keeps.busy hbusy)
          ((hchain.entering S).of_frame hframe)
        rw [hcmd]
        exact runHandler_follows (s := u.entering S) hchain.legal
      · rw [finish_goto_pos _ S u hd]
        exact hchain.gotoAfter hbusy (hlater hd) hid
    | complete u => exact hchain.complete
    | fatal r u =>
      have hnone : handles u.fdc.cmd op = false := hfollows
      exact absurd (hnone.symm.trans hhandles) Bool.false_ne_true

/-- Carrying out an ending with the block's own bound. -/
theorem HandlerEnd.run_orderly {e : HandlerEnd} {op : OpStatus} (hfollows : e.Follows e.state.fdc.cmd op)
    (hhandles : handles e.state.fdc.cmd op = true) (hbusy : e.state.fdc.busy = true) (hchain : e.state.InChain) :
    e.run.Orderly :=
  finish_orderly chainBound e op hfollows hhandles ((chainRank_le op).trans (by decide)) hbusy hchain

/-! ### Firing a due entry (R145, R148) -/

/-- FdcStep of a running command. -/
theorem State.InChain.fdcStep {s : State} (h : s.InChain) (hbusy : s.fdc.busy = true)
    (hwait : waitsIn s.fdc.cmd s.fdc.op = true) : s.fdcStep.Orderly := by
  have hchain : (s.withFdc { s.fdc with cmdPulse := none }).InChain := ⟨h.legal, h.fault, h.owned⟩
  have hframe := runHandler_frame (s.withFdc { s.fdc with cmdPulse := none })
  have hcmd : (runHandler (s.withFdc { s.fdc with cmdPulse := none })).state.fdc.cmd = s.fdc.cmd := hframe.keeps.cmd
  unfold State.fdcStep
  rw [fdcStepEnd_busy hbusy]
  refine HandlerEnd.run_orderly (op := s.fdc.op) ?_ ?_ (hframe.keeps.busy hbusy) (hchain.of_frame hframe)
  · rw [hcmd]
    exact runHandler_follows (s := s.withFdc { s.fdc with cmdPulse := none }) h.legal
  · rw [hcmd]
    exact handles_of_waitsIn hwait

theorem State.Orderly.readyEdge {s : State} (h : s.Orderly) : s.readyEdge.Orderly := by
  rw [State.readyEdge_eq]
  exact h.congr rfl rfl rfl rfl

/-- The motor's entry gone, the field that named it cleared (R182). -/
theorem State.Orderly.motorOffCb {s : State} (h : s.Orderly) {k : Clock}
    (hk : ∀ command, s.clk.OwnedBy (s.owner command) →
      k.OwnedBy (({ s with motorPulse := none } : State).owner command)) :
    ({ s with clk := k } : State).motorOffCb.Orderly := by
  unfold State.motorOffCb
  refine State.Orderly.readyEdge (s := { s with clk := k, motorPulse := none, motorOn := false, motorIrq := true }) ?_
  exact ⟨h.fault, hk _ h.owned, fun hidle => ⟨(h.idle hidle).1, hk _ (h.idle hidle).2⟩, h.waiting, h.idBuffer⟩

/-- A change of the clock that keeps what owns what. -/
theorem State.Orderly.withClock {s : State} (h : s.Orderly) {k : Clock}
    (hk : ∀ o, s.clk.OwnedBy o → k.OwnedBy o) : ({ s with clk := k } : State).Orderly :=
  ⟨h.fault, hk _ h.owned, fun hidle => ⟨(h.idle hidle).1, hk _ (h.idle hidle).2⟩, h.waiting, h.idBuffer⟩

/-- Firing a live entry: the command's runs its handler; the others change no field of the sequencer. -/
theorem State.Orderly.fire {s : State} (h : s.Orderly) (hl : legalConfig s.cfg = true) {e : Pulse}
    (he : e ∈ s.clk.pulses) (hlive : e.expired = false) : (s.fire e).Orderly := by
  have hsame : ∀ o, s.clk.OwnedBy o → (s.clk.take e).OwnedBy o := fun o ho => ho.take he hlive fun _ _ => rfl
  unfold State.fire
  cases hcb : e.cb with
  | fdcStep =>
    have honce := h.owned.once e he hlive (.inl hcb)
    have hbusy : s.fdc.busy = true := by
      by_contra hidle
      have hnamed := (h.idle (by simpa using hidle)).2.named e he hlive (by rw [hcb]; decide)
      rw [hcb] at hnamed
      cases hnamed
    have howned : (s.clk.take e).OwnedBy (s.owner none) := by
      refine h.owned.take he hlive fun c hc => ?_
      rw [hcb, honce] at hc
      cases c with
      | fdcStep => simp at hc
      | motorOff | indexIrq | external => rfl
    exact State.InChain.fdcStep (s := { s with clk := s.clk.take e }) ⟨hl, h.fault, howned⟩ hbusy (h.waiting hbusy)
  | motorOff =>
    have honce := h.owned.once e he hlive (.inr hcb)
    refine h.motorOffCb fun command howned => howned.take he hlive fun c hc => ?_
    rw [hcb, honce] at hc
    cases c with
    | motorOff => simp at hc
    | fdcStep | indexIrq | external => rfl
  | indexIrq => exact (h.withClock hsame).congr rfl rfl rfl rfl
  | external => exact h.withClock hsame

/-! ### Dispatch (R145) -/

theorem Act.work {s u : State} (h : Act s u) (hs : s.Core) : u.clk.work ≤ s.clk.work := by
  cases h with
  | move h => rw [h.frame.clk]
  | fdc => exact Nat.le_refl _
  | abort => rw [State.wtAbort_shape]
  | takeHandle => exact Nat.le_refl _
  | insert cb hh hd hp => exact (Clock.work_insert hd).le
  | expire handle => exact (Clock.work_expire s handle).le
  | drop => exact Clock.work_drop _
  | take he => exact (Clock.work_take he (hs.clock.periods _ he)).1
  | lines hcfg hclk hfdc hdrives => rw [hclk]

theorem Acts.work {s u : State} (h : Acts s u) (hs : s.Core) : u.clk.work ≤ s.clk.work := by
  induction h with
  | refl => exact Nat.le_refl _
  | tail hacts hact ih => exact (hact.work (Acts.core hacts hs)).trans ih

/-- Firing a due entry uses up some of the work. -/
theorem State.Core.fire_work {s : State} (h : s.Core) {e : Pulse} (he : e ∈ s.clk.pulses) (hdue : e.trigger ≤ s.clk.ticks) :
    (s.fire e).clk.work < s.clk.work := by
  have htake := (Clock.work_take he (h.clock.periods e he)).2 hdue
  have hinvoke : Acts { s with clk := s.clk.take e } (s.fire e) := Acts.invoke .refl e.cb
  exact (hinvoke.work (h.withClock (h.clock.take he))).trans_lt htake

theorem State.fire_acts {s : State} {e : Pulse} (he : e ∈ s.clk.pulses) : Acts s (s.fire e) :=
  Acts.invoke (.single (.take he)) e.cb

/-- With enough fuel for its work, Dispatch raises no Fatal and keeps the sequencer in order. -/
theorem dispatchLoop_orderly (fuel : Nat) : ∀ s : State, s.clk.work ≤ fuel → s.Core → s.Orderly →
    (dispatchLoop fuel s).Orderly := by
  induction fuel with
  | zero =>
    intro s hwork hcore horder
    have hdrop : ({ s with clk := s.clk.dropExpired } : State).Orderly := horder.withClock fun _ ho => ho.drop
    have hnone : s.clk.dropExpired.nextDue = none := by
      rw [Option.eq_none_iff_forall_ne_some]
      intro e he
      obtain ⟨hmem, -, hdue, -⟩ := Clock.nextDue_eq_some he
      have hcore' : ({ s with clk := s.clk.dropExpired } : State).Core := hcore.withClock hcore.clock.drop
      have hlt := hcore'.fire_work hmem hdue
      have hle := Clock.work_drop s.clk
      dsimp only at hlt
      omega
    unfold dispatchLoop
    dsimp only
    rw [hnone]
    exact hdrop
  | succ fuel ih =>
    intro s hwork hcore horder
    have hdrop : ({ s with clk := s.clk.dropExpired } : State).Orderly := horder.withClock fun _ ho => ho.drop
    have hcore' : ({ s with clk := s.clk.dropExpired } : State).Core := hcore.withClock hcore.clock.drop
    unfold dispatchLoop
    dsimp only
    split
    · exact hdrop
    · rename_i e he
      obtain ⟨hmem, hlive, hdue, -⟩ := Clock.nextDue_eq_some he
      have hfire := hdrop.fire hcore.legal hmem hlive
      have hlt := hcore'.fire_work hmem hdue
      have hle := Clock.work_drop s.clk
      rw [hfire.fault]
      dsimp only at hlt
      exact ih _ (by omega) ((State.fire_acts hmem).core hcore') hfire

theorem State.Orderly.dispatchDue {s : State} (h : s.Orderly) (hcore : s.Core) : s.dispatchDue.Orderly :=
  dispatchLoop_orderly _ s (Nat.le_refl _) hcore h

end Sys2Proof.Machine
end

section
/-! PROOFS. Commands, selects, resets and the Operator's actions keep the sequencer in order, and so does every step that is not
a raw scheduler call (R57, R153, R403, R458). -/

namespace Sys2Proof.Machine

/-- RegisterPulse of an entry that waits: one entry under the next fresh handle (R143). -/
theorem State.registerPulse_waits (s : State) (cb : Callback) {delay period : Nat} {periodic : Bool} (hd : 0 < delay)
    (hp : periodic = true → 0 < period) :
    s.registerPulse cb delay periodic period = s.takeHandle.insertPulse s.clk.nextHandle cb delay periodic period := by
  unfold State.registerPulse
  dsimp only
  rw [if_neg fun h => Nat.ne_of_gt (hp h.1) h.2, if_neg (Nat.ne_of_gt hd)]

/-! ### Commands (R171, R201, R230) -/

/-- An idle controller in OpDone is in order. -/
theorem State.InChain.orderly_of_idle {s : State} (h : s.InChain) (hbusy : s.fdc.busy = false) (hop : s.fdc.op = .opDone) :
    s.Orderly where
  fault := h.fault
  owned := h.owned_any s.fdc.cmdPulse
  idle _ := ⟨hop, h.owned⟩
  waiting hb := absurd (hbusy.symm.trans hb) Bool.false_ne_true
  idBuffer hid := absurd (hop.symm.trans hid) (by decide)

/-- Accepting a command expires the entry of the old I2 arm, and its field with it (R305). -/
theorem State.acceptCommand_owned {s : State} {command : Option Nat} (h : s.clk.OwnedBy (s.owner command)) (v : Byte) :
    (s.acceptCommand v).clk.OwnedBy ((s.acceptCommand v).owner command) := by
  have hexpire := h.expireOwner (cb := .indexIrq) (o' := (s.acceptCommand v).owner command) fun c hc => by
    rw [State.acceptCommand_eq]
    cases c with
    | indexIrq => exact absurd rfl hc
    | fdcStep | motorOff | external => rfl
  have hclk : (s.acceptCommand v).clk = (s.expireOpt (s.owner command .indexIrq)).clk := by
    rw [State.acceptCommand_eq, State.expireOpt_eq]
    rfl
  rw [hclk]
  exact hexpire

theorem State.acceptCommand_fdc (s : State) (v : Byte) : (s.acceptCommand v).fdc = { s.fdc with
    cr := v, cmd := kindOf v, intrq := false, indexPulse := none, armI0 := false, armI1 := false } := by
  rw [State.acceptCommand_eq]

theorem State.acceptCommand_cfg (s : State) (v : Byte) : (s.acceptCommand v).cfg = s.cfg := by
  rw [State.acceptCommand_eq]

theorem State.acceptCommand_fault (s : State) (v : Byte) : (s.acceptCommand v).fault = s.fault := by
  rw [State.acceptCommand_eq]

/-- A Type I, II or III command begins its chain (R201, R230). -/
theorem State.InChain.startCommand {s : State} (h : s.InChain) {k : CmdKind} (hcmd : s.fdc.cmd = k)
    (hk : k ≠ .forceInterrupt) (prevCmd : CmdKind) : (s.startCommand k prevCmd).Orderly := by
  have hchain : (s.withFdc { s.fdc with op := .prepare }).InChain := ⟨h.legal, h.fault, h.owned⟩
  have hhandles : handles k .prepare = true := by simpa [handles] using hk
  have hbegin : ∀ e : HandlerEnd, HandlerFrame (s.withFdc { s.fdc with op := .prepare }) e.state →
      e.Follows k .prepare → e.state.fdc.busy = true → e.run.Orderly := by
    intro e hframe hfollows hbusy
    have hcmd' : e.state.fdc.cmd = k := hframe.keeps.cmd.trans hcmd
    exact HandlerEnd.run_orderly (hcmd' ▸ hfollows) (hcmd' ▸ hhandles) hbusy (hchain.of_frame hframe)
  have htypeII : k.type = .typeII ∨ k.type = .typeIII →
      (onPrepareTypeII (s.withFdc { s.fdc with op := .prepare })).run.Orderly := by
    intro htype
    refine hbegin _ (onPrepareTypeII_moves _).frame (onPrepareTypeII_follows hchain.legal htype) ?_
    unfold onPrepareTypeII
    dsimp only
    split_ifs <;> rfl
  unfold State.startCommand
  split
  · rename_i htype
    exact hbegin _ (onPrepareTypeI_moves _).frame (onPrepareTypeI_follows (by simp [CmdKind.isTypeI, htype]))
      ((Fdc.prepareTypeI_keeps s.cfg _).busy rfl)
  · rename_i htype
    exact htypeII (.inl htype)
  · rename_i htype
    exact htypeII (.inr htype)
  · rename_i htype
    cases k <;> simp [CmdKind.type] at htype hk

/-! ### Force Interrupt (R300 to R305) -/

/-- The controller at rest: idle in OpDone, no I2 arm. -/
structure State.Resting (s : State) : Prop where
  chain : s.InChain
  busy : s.fdc.busy = false
  op : s.fdc.op = .opDone
  indexPulse : s.fdc.indexPulse = none

/-- Terminating a command expires its entry (R301). -/
theorem State.terminate_resting {s : State} (hl : legalConfig s.cfg = true) (hfault : s.fault = none)
    (howned : s.clk.OwnedBy (s.owner s.fdc.cmdPulse)) (hindex : s.fdc.indexPulse = none) (prevCmd : CmdKind) :
    (s.terminate prevCmd).Resting := by
  have hexpire : (s.expireOpt s.fdc.cmdPulse).clk.OwnedBy (s.owner none) :=
    howned.expireOwner (cb := .fdcStep) fun c hc => by
      cases c with
      | fdcStep => exact absurd rfl hc
      | motorOff | indexIrq | external => rfl
  have hshape : ∃ drives, s.terminate prevCmd = { s with
      clk := (s.expireOpt s.fdc.cmdPulse).clk, drives := drives
      fdc := { s.fdc with cmdPulse := none, busy := false, op := .opDone } } := by
    unfold State.terminate
    dsimp only
    split
    · rw [State.wtAbort_shape, State.expireOpt_eq]
      exact ⟨_, rfl⟩
    · rw [State.expireOpt_eq]
      exact ⟨_, rfl⟩
  obtain ⟨drives, hshape⟩ := hshape
  rw [hshape]
  exact ⟨⟨hl, hfault, hexpire⟩, rfl, rfl, hindex⟩

/-- Arming I2 registers the one IndexIrq entry, which the field names (R300). -/
theorem State.Resting.armIndex {s : State} (h : s.Resting) : s.armIndex.InChain ∧ s.armIndex.fdc.busy = false ∧
    s.armIndex.fdc.op = .opDone := by
  have htpr := (legalConfig_pos h.chain.legal).2.2.1
  unfold State.armIndex
  dsimp only
  rw [State.registerPulse_waits s .indexIrq (by split_ifs <;> omega) fun _ => htpr]
  refine ⟨⟨h.chain.legal, h.chain.fault, ?_⟩, h.busy, h.op⟩
  refine Clock.OwnedBy.insert (cb := .indexIrq) h.chain.owned (fun _ => h.indexPulse) (fun hcb => ?_) (fun c hc => ?_) fun _ => rfl
  · rcases hcb with hcb | hcb <;> cases hcb
  · cases c with
    | indexIrq => exact absurd rfl hc
    | fdcStep | motorOff | external => rfl

theorem State.forceInterrupt_orderly {s : State} (hl : legalConfig s.cfg = true) (hfault : s.fault = none)
    (howned : s.clk.OwnedBy (s.owner s.fdc.cmdPulse))
    (hidle : s.fdc.busy = false → s.fdc.op = .opDone ∧ s.clk.OwnedBy (s.owner none)) (hindex : s.fdc.indexPulse = none)
    (prevCmd : CmdKind) : (s.forceInterrupt prevCmd).Orderly := by
  have hrest : (if s.fdc.busy then s.terminate prevCmd else s.withFdc { s.fdc with statusMode := .typeI }).Resting := by
    split
    · exact State.terminate_resting hl hfault howned hindex prevCmd
    · rename_i hb
      obtain ⟨hop, hnone⟩ := hidle (by simpa using hb)
      exact ⟨⟨hl, hfault, hnone⟩, by simpa using hb, hop, hindex⟩
  have hlatch : ∀ (b : Bool) (u : State), u.Resting → (if b then u.latchIntrq else u).Resting := by
    intro b u hu
    split
    · exact ⟨⟨hu.chain.legal, hu.chain.fault, hu.chain.owned⟩, hu.busy, hu.op, hu.indexPulse⟩
    · exact hu
  have harm : ∀ (b : Bool) (u : State), u.Resting → (if b then u.armIndex else u).InChain ∧
      (if b then u.armIndex else u).fdc.busy = false ∧ (if b then u.armIndex else u).fdc.op = .opDone := by
    intro b u hu
    split
    · exact hu.armIndex
    · exact ⟨hu.chain, hu.busy, hu.op⟩
  obtain ⟨hchain, hbusy, hop⟩ := harm (s.fdc.cr.getLsbD 2) _ (hlatch (s.fdc.cr.getLsbD 3) _ hrest)
  exact State.InChain.orderly_of_idle ⟨hchain.legal, hchain.fault, hchain.owned⟩ hbusy hop

/-- WriteCommand keeps the sequencer in order (R171). -/
theorem State.Orderly.writeCommand {s : State} (h : s.Orderly) (hl : legalConfig s.cfg = true) (v : Byte) :
    (s.writeCommand v).Orderly := by
  unfold State.writeCommand
  split
  · exact h
  · rename_i haccepted
    have hfdc := s.acceptCommand_fdc v
    have hl' : legalConfig (s.acceptCommand v).cfg = true := s.acceptCommand_cfg v ▸ hl
    have hfault : (s.acceptCommand v).fault = none := (s.acceptCommand_fault v).trans h.fault
    have hnone := fun hidle => State.acceptCommand_owned (h.idle hidle).2 v
    by_cases hk : kindOf v = .forceInterrupt
    · rw [hk]
      refine State.forceInterrupt_orderly hl' hfault ?_ ?_ (by rw [hfdc]) _
      · rw [hfdc]
        exact State.acceptCommand_owned h.owned v
      · rw [hfdc]
        exact fun hidle => ⟨(h.idle hidle).1, hnone hidle⟩
    · have hidle : s.fdc.busy = false := by
        by_contra hb
        exact haccepted ⟨by simpa using hb, hk⟩
      exact State.InChain.startCommand ⟨hl', hfault, hnone hidle⟩ (by rw [hfdc]) hk _

/-! ### Selects (R179, R182) -/

/-- The motor retrigger replaces the MotorOff entry and the field that names it. -/
theorem State.Orderly.retriggerMotor {s : State} (h : s.Orderly) (hl : legalConfig s.cfg = true) :
    s.retriggerMotor.Orderly := by
  have hdelay := (legalConfig_pos hl).2.2.2.2.2.2.2.1
  have howned : ∀ command, s.clk.OwnedBy (s.owner command) →
      s.retriggerMotor.clk.OwnedBy (s.retriggerMotor.owner command) := by
    intro command ho
    unfold State.retriggerMotor
    dsimp only
    rw [State.registerPulse_waits _ .motorOff hdelay fun hp => absurd hp Bool.false_ne_true]
    have hexpire : (({ s with motorOn := true } : State).expireOpt s.motorPulse).clk.OwnedBy
        (({ s with motorPulse := none } : State).owner command) :=
      Clock.OwnedBy.expireOwner (s := { s with motorOn := true }) (cb := .motorOff) ho fun c hc => by
        cases c with
        | motorOff => exact absurd rfl hc
        | fdcStep | indexIrq | external => rfl
    refine Clock.OwnedBy.insert (cb := .motorOff) hexpire (fun _ => rfl) (fun _ => rfl) (fun c hc => ?_) fun _ => ?_
    · cases c with
      | motorOff => exact absurd rfl hc
      | fdcStep | external => rfl
      | indexIrq => rw [State.expireOpt_eq]; rfl
    · rw [State.expireOpt_eq]
      rfl
  have hfdc : s.retriggerMotor.fdc = s.fdc := by rw [State.retriggerMotor_eq hl]
  refine ⟨?_, ?_, ?_, ?_, ?_⟩
  · rw [State.retriggerMotor_eq hl]
    exact h.fault
  · rw [hfdc]
    exact howned _ h.owned
  · rw [hfdc]
    exact fun hidle => ⟨(h.idle hidle).1, howned _ (h.idle hidle).2⟩
  · rw [hfdc]
    exact h.waiting
  · rw [hfdc]
    exact h.idBuffer

theorem State.Orderly.select {s : State} (h : s.Orderly) (hl : legalConfig s.cfg = true) {f : Fdc}
    (hf : s.fdc = { f with
      selDrive := s.fdc.selDrive, side := s.fdc.side, dd := s.fdc.dd, waitReq := s.fdc.waitReq }) (driveBit : Bool) :
    (s.select f driveBit).Orderly := by
  have hredirected : ((s.withFdc f).redirected s.fdc).Orderly := by
    rw [State.redirected_eq]
    exact h.congr rfl rfl rfl (by rw [hf]; rfl)
  have hcfg : ((s.withFdc f).redirected s.fdc).cfg = s.cfg := by rw [State.redirected_eq]; rfl
  unfold State.select
  dsimp only
  split
  · exact (hredirected.retriggerMotor (by rw [hcfg]; exact hl)).readyEdge
  · exact hredirected.readyEdge

/-! ### Reset and the Operator (R440, R441, R373) -/

theorem State.Orderly.hardReset {s : State} (h : s.Orderly) : s.hardReset.Orderly := by
  have howned : s.hardReset.clk.OwnedBy (s.hardReset.owner none) := by
    refine h.owned.of_pulses (by rw [State.hardReset_clk]) (fun x hx => ?_) ?_
    · obtain ⟨e, he, hxe, hlive⟩ := State.mem_hardReset_pulses hx
      refine ⟨e, he, by rw [hxe], fun hx' => ?_⟩
      obtain ⟨rfl, hext⟩ := hlive hx'
      exact ⟨hx', rfl, rfl, fun hne => absurd hext hne⟩
    · rw [State.hardReset_pulses]
      refine h.owned.distinct.map _ fun a b hab => ?_
      split_ifs <;> exact hab
  have hfault : s.hardReset.fault = none := s.abortIfWriting_fault.trans h.fault
  exact ⟨hfault, howned, fun _ => ⟨rfl, howned⟩, fun hb => absurd hb Bool.false_ne_true,
    fun hop => OpStatus.noConfusion (hop : OpStatus.opDone = .readingAddressData)⟩

theorem OperatorEffect.orderly {s t : State} {a : OperatorAction} (he : OperatorEffect s a t) (h : s.Orderly) :
    t.Orderly := by
  have hmedium : ∀ n m, (s.setMedium n m).Orderly := fun _ _ => h.congr rfl rfl rfl rfl
  cases he with
  | mount a n m hm ha => exact (hmedium _ _).readyEdge
  | eject a n ha => exact (hmedium _ _).readyEdge
  | label a n m m' hm hm' image => exact (hmedium n (some m')).congr rfl rfl rfl rfl
  | idle => exact h
  | rewrite n t side d m T T' hm hT hT' => exact hmedium _ _
  | reset => exact h.hardReset

/-! ### Every step -/

/-- Registering an External entry that is no caller error changes nothing the sequencer names (R143, R36). -/
theorem State.Orderly.registerExternal {s : State} (h : s.Orderly) {delay period : Nat} {periodic : Bool}
    (hper : periodic = true → delay ≠ 0 ∧ period ≠ 0) : (s.registerPulse .external delay periodic period).Orderly := by
  by_cases hd : delay = 0
  · have hp : periodic = false := by
      by_contra hp
      exact (hper (by simpa using hp)).1 hd
    have hnow : s.registerPulse .external delay periodic period = s.takeHandle := by
      simp [State.registerPulse, hd, hp, State.invoke]
    rw [hnow]
    exact h.withClock fun _ ho => { ho with fresh := fun e he => Nat.lt_succ_of_lt (ho.fresh e he) }
  · rw [State.registerPulse_waits s .external (Nat.pos_of_ne_zero hd) fun hp => Nat.pos_of_ne_zero (hper hp).2]
    refine h.withClock fun o ho => Clock.OwnedBy.insert (cb := .external) ho (fun hext => absurd rfl hext) (fun hcb => ?_)
      (fun _ _ => rfl) fun hext => absurd rfl hext
    rcases hcb with hcb | hcb <;> cases hcb

/-- In order, or stopped by an overflowing clock with nothing else changed (R141). -/
def OrderlyOrOverflow (t : State) : Prop := t.Orderly ∨ ∃ s : State, s.Orderly ∧ t = s.raiseFatal .clockOverflow

theorem State.Orderly.advanceBy {s : State} (h : s.Orderly) (hcore : s.Core) (n : Nat) :
    OrderlyOrOverflow (s.advanceBy n) := by
  rcases s.advanceBy_cases n with he | ⟨k, hk, he⟩
  · exact .inr ⟨s, h, he⟩
  · have htick : (s.atTick (s.clk.ticks + k * s.cfg.ticksPerTstate)).Orderly :=
      State.Orderly.congr (s := { s with clk := { s.clk with ticks := s.clk.ticks + k * s.cfg.ticksPerTstate } })
        (h.withClock fun _ ho => ⟨ho.named, ho.once, ho.distinct, ho.fresh⟩) rfl rfl rfl rfl
    rw [he]
    exact .inl (htick.dispatchDue (hcore.atTick hk))

theorem Effect.orderly {s t : State} {i : Instr} (he : Effect s i t) (h : s.Orderly) (hcore : s.Core)
    (hi : i.rawCall = false) : OrderlyOrOverflow t := by
  have hunit : ({ s with inUnit := true } : State).Orderly := h.congr rfl rfl rfl rfl
  cases he with
  | command _ v _ => exact .inl (hunit.writeCommand hcore.legal v)
  | port _ f d _ hf => exact .inl (h.congr rfl rfl rfl (by rw [hf]))
  | select v =>
    unfold State.writeSelect
    exact .inl (hunit.select hcore.legal (by rfl) _)
  | advance n => exact h.advanceBy hcore n
  | registerPulse cb delay periodic period =>
    obtain ⟨rfl, hper⟩ : cb = .external ∧ (periodic = true → delay ≠ 0 ∧ period ≠ 0) := by
      simpa [Instr.rawCall] using hi
    exact .inl ((h.registerExternal hper).congr rfl rfl rfl rfl)
  | expire handle => exact .inl (h.withClock fun _ ho => ho.expire handle)
  | dispatch => exact .inl (h.dispatchDue hcore)
  | goto => cases hi

/-- Every step that is not a raw scheduler call leaves the sequencer in order, or the clock overflows. -/
theorem step_orderly {s t : State} (hs : s.Inv) (hseq : s.SeqInv)
    (hraw : ∀ i u, s.nextEvent = .instr i u → i.rawCall = false) (hstep : step s = .next t) : OrderlyOrOverflow t := by
  obtain ⟨hfault, hcase⟩ := step_inv hstep
  have hcore : s.Core := (State.inv_iff.1 hs).1
  have horder : s.Orderly := State.orderly_of_seqInv hseq hfault
  have hfeed : ∀ script rest, (s.feed script rest).Orderly := fun _ _ => horder.congr rfl rfl rfl rfl
  have hunit : ∀ script rest, ({ (s.feed script rest) with inUnit := true } : State).Orderly :=
    fun _ _ => horder.congr rfl rfl rfl rfl
  cases hcase with
  | operator a script rest _ h => exact .inl ((operate_inv h).orderly (hfeed script rest))
  | held _ h =>
    rw [h]
    exact horder.advanceBy hcore _
  | instr i script rest hevent h =>
    exact (exec_inv h).2.orderly (hfeed script rest) (hcore.congr rfl rfl rfl rfl) (hraw i _ hevent)
  | select n side script rest _ h =>
    rw [h]
    unfold State.selectDrive
    exact .inl ((hunit script rest).select hcore.legal (by rfl) true)
  | reset script rest _ h =>
    rw [h]
    exact .inl (hunit script rest).hardReset

/-- Settles O58, by the order of the sequencer: every chain falls in rank to a completion or a waiting state, and a Dispatch has
fuel for all its work. -/
theorem stepKeepsSeqInv : Obligations.StepKeepsSeqInv := by
  unfold Obligations.StepKeepsSeqInv
  intro s t hs hseq hraw hstep
  rcases step_orderly hs hseq hraw hstep with h | ⟨u, hu, rfl⟩
  · exact ⟨h.seqInv, .inl h.fault⟩
  · have h := hu.seqInv
    exact ⟨⟨h.idle, h.waiting, h.command, h.motor, h.index, h.distinct, h.fresh, h.idBuffer⟩, .inr rfl⟩

end Sys2Proof.Machine
end

section
/-! PROOFS. The order of the IDAM indexes: what Write Track's new index is while it writes, what a commit and an abort leave, and
that every step keeps every index in order while the track stays under the head (R69, R288 to R293). -/

namespace Sys2Proof.Machine

/-! ### Indexes in order -/

/-- Every track's index is in order (R69). -/
def State.IndexesOk (s : State) : Prop := s.AllMedia fun m => ∀ T ∈ m.tracks, T.indexOk s.cfg = true

theorem State.IndexesOk.congr {s u : State} (h : s.IndexesOk) (hcfg : u.cfg = s.cfg) (hdrives : u.drives = s.drives) :
    u.IndexesOk := by
  intro n m hm
  rw [hcfg]
  refine h n m ?_
  simpa only [State.drive, hdrives] using hm

theorem State.IndexesOk.curTrack {s : State} (h : s.IndexesOk) {T : Track} (hT : s.curTrack = some T) :
    T.indexOk s.cfg = true := by
  obtain ⟨m, hm, hmem⟩ := State.curTrack_mem hT
  exact h.curMedium hm T hmem

/-- The tracks after one is replaced: the old ones and the new. -/
theorem Medium.mem_setTrack {m : Medium} {t : Nat} {side : Bool} {T x : Track} (h : x ∈ (m.setTrack t side T).tracks) :
    x ∈ m.tracks ∨ x = T := by
  obtain ⟨i, hi⟩ := m.setTrack_shape t side T
  rw [hi] at h
  exact List.mem_or_eq_of_mem_set h

theorem State.IndexesOk.setCurTrack {s : State} (h : s.IndexesOk) {T : Track} {c : Bool} (hT : T.indexOk s.cfg = true) :
    (s.setCurTrack T c).IndexesOk := by
  have hall : (s.setCurTrack T c).AllMedia fun m => ∀ T ∈ m.tracks, T.indexOk s.cfg = true :=
    AllMedia.setCurTrack h fun m t side hm x hx => by
      rcases Medium.mem_setTrack hx with hold | rfl
      · exact h.curMedium hm x hold
      · exact hT
  have hcfg : (s.setCurTrack T c).cfg = s.cfg := by rw [State.setCurTrack_shape]
  unfold State.IndexesOk
  rw [hcfg]
  exact hall

/-- A track with the same index, and no shorter, has it in order. -/
theorem Track.indexOk_of_le {c : Config} {T T' : Track} (h : T.indexOk c = true) (hidx : T'.index = T.index)
    (hlen : T.len ≤ T'.len) : T'.indexOk c = true := by
  obtain ⟨hslots, hasc, hin⟩ := Track.indexOk_iff.1 h
  refine Track.indexOk_iff.2 ⟨by rw [hidx]; exact hslots, by rw [hidx]; exact hasc, ?_⟩
  rw [hidx]
  exact fun e he => (hin e he).trans_le hlen

/-! ### The bytes Write Track puts (R288) -/

theorem putRaw_index (cap p : Nat) (v : Byte) (T : Track) : (putRaw cap p v T).index = T.index := by
  unfold putRaw
  split_ifs <;> rfl

theorem putRun_index (cap p : Nat) (v : Byte) (T : Track) (k : Nat) : (putRun cap p v T k).index = T.index := by
  induction k with
  | zero => rfl
  | succ k ih => exact (putRaw_index _ _ _ _).trans ih

theorem putRaw_len (cap p : Nat) (v : Byte) (T : Track) :
    (putRaw cap p v T).len = if p < cap ∧ T.len ≤ p then T.len + 1 else T.len := by
  unfold putRaw
  by_cases hroom : p < cap
  · by_cases hfull : p < T.len
    · simp [hroom, hfull]
    · simp [hroom, hfull, Nat.not_lt.1 hfull]
  · simp [hroom]

/-- A run of bytes from a cursor inside the track, or past the capacity: the track does not shrink, reaches the new cursor or is
full, and covers the old cursor. -/
theorem putRun_len {cap p : Nat} (v : Byte) {T : Track} (h : p ≤ T.len ∨ cap ≤ p) (k : Nat) :
    T.len ≤ (putRun cap p v T k).len ∧ (p + k ≤ (putRun cap p v T k).len ∨ cap ≤ p + k) ∧
      (0 < k → p < cap → p < (putRun cap p v T k).len) := by
  induction k with
  | zero => exact ⟨Nat.le_refl _, h, fun h0 => absurd h0 (Nat.lt_irrefl 0)⟩
  | succ k ih =>
    obtain ⟨hmono, hreach, hcover⟩ := ih
    simp only [putRun, putRaw_len]
    split_ifs <;> omega

theorem putRun_len_le (cap p : Nat) (v : Byte) (T : Track) (k : Nat) : T.len ≤ (putRun cap p v T k).len := by
  induction k with
  | zero => exact Nat.le_refl _
  | succ k ih =>
    simp only [putRun, putRaw_len]
    split_ifs <;> omega

theorem State.curTrack_congr {s u : State} (hdrives : u.drives = s.drives) (hsel : u.fdc.selDrive = s.fdc.selDrive)
    (hside : u.fdc.side = s.fdc.side) : u.curTrack = s.curTrack := by
  simp only [State.curTrack, State.drive, hdrives, hsel, hside]

theorem State.capacity_congr {s u : State} (hcfg : u.cfg = s.cfg) (hdrives : u.drives = s.drives)
    (hsel : u.fdc.selDrive = s.fdc.selDrive) : u.capacity = s.capacity := by
  simp only [State.capacity, State.curMedium, State.drive, hdrives, hsel, hcfg]

theorem State.withFdc_curTrack {s : State} {f : Fdc} (hsel : f.selDrive = s.fdc.selDrive) (hside : f.side = s.fdc.side) :
    (s.withFdc f).curTrack = s.curTrack :=
  State.curTrack_congr rfl hsel hside

theorem State.withFdc_capacity {s : State} {f : Fdc} (hsel : f.selDrive = s.fdc.selDrive) :
    (s.withFdc f).capacity = s.capacity :=
  State.capacity_congr rfl rfl hsel

/-- Replacing the current track leaves the medium's capacity. -/
theorem State.setCurTrack_capacity (s : State) (T : Track) (c : Bool) : (s.setCurTrack T c).capacity = s.capacity := by
  rcases s.setCurTrack_cases T c with he | ⟨n, m, hn, hm, he⟩
  · rw [he]
  · obtain ⟨i, hi⟩ := m.setTrack_shape (s.drive n).physTrack s.fdc.side T
    rw [he]
    simp [State.capacity, State.curMedium, State.drive_setDrive, hn, hm, hi]

theorem State.setCurTrack_fdc (s : State) (T : Track) (c : Bool) : (s.setCurTrack T c).fdc = s.fdc := by
  rw [State.setCurTrack_shape]

theorem State.wtPut_capacity (s : State) (v : Byte) : (s.wtPut v).capacity = s.capacity := by
  cases hT : s.curTrack with
  | none =>
    rw [State.wtPut_of_none hT]
    exact State.capacity_congr rfl rfl rfl
  | some T =>
    have hfdc := s.setCurTrack_fdc (putRun s.capacity s.fdc.cursor v T s.stride)
      (s.curChanged || decide (s.fdc.cursor < s.capacity))
    rw [State.wtPut_of_some hT]
    exact (State.withFdc_capacity (congrArg Fdc.selDrive hfdc).symm).trans
      (s.setCurTrack_capacity _ _)

theorem State.wtPut_curTrack_of_none {s : State} (h : s.curTrack = none) (v : Byte) : (s.wtPut v).curTrack = none := by
  rw [State.wtPut_of_none h, ← h]
  exact State.curTrack_congr rfl rfl rfl

theorem State.wtPut_curTrack_of_some {s : State} {T : Track} (h : s.curTrack = some T) (v : Byte) :
    (s.wtPut v).curTrack = some (putRun s.capacity s.fdc.cursor v T s.stride) := by
  obtain ⟨-, -, -, -, -, hcur, -⟩ := State.setCurTrack_spec (putRun s.capacity s.fdc.cursor v T s.stride)
    (s.curChanged || decide (s.fdc.cursor < s.capacity)) h
  have hfdc := s.setCurTrack_fdc (putRun s.capacity s.fdc.cursor v T s.stride)
    (s.curChanged || decide (s.fdc.cursor < s.capacity))
  rw [State.wtPut_of_some h]
  exact (State.withFdc_curTrack (congrArg Fdc.selDrive hfdc).symm (congrArg Fdc.side hfdc).symm).trans hcur

theorem State.IndexesOk.wtPut {s : State} (h : s.IndexesOk) (v : Byte) : (s.wtPut v).IndexesOk := by
  cases hT : s.curTrack with
  | none =>
    rw [State.wtPut_of_none hT]
    exact h.congr rfl rfl
  | some T =>
    rw [State.wtPut_of_some hT]
    exact State.IndexesOk.congr
      (h.setCurTrack (Track.indexOk_of_le (h.curTrack hT) (putRun_index _ _ _ _ _) (putRun_len_le _ _ _ _ _))) rfl rfl

/-- A move of another command than Write Track leaves every index in order. -/
theorem Move.indexesOk {s u : State} (h : Move s u) (hcmd : s.fdc.cmd ≠ .writeTrack) (hs : s.IndexesOk) : u.IndexesOk := by
  cases h with
  | fdc => exact hs.congr rfl rfl
  | head dir =>
    have hcfg : (s.stepHead dir).cfg = s.cfg := by rw [State.stepHead_eq]
    intro n m hm
    rw [hcfg]
    refine hs n m ?_
    rw [State.stepHead_drive] at hm
    split_ifs at hm <;> exact hm
  | write v =>
    cases hT : s.curTrack with
    | none =>
      rw [State.writeLogical_of_none hT]
      exact hs.congr rfl rfl
    | some T =>
      rw [State.writeLogical_of_some hT]
      exact State.IndexesOk.congr
        (hs.setCurTrack (Track.indexOk_of_le (hs.curTrack hT) (Track.fill_index ..) (Track.fill_len ..).ge)) rfl rfl
  | put v => exact hs.wtPut v
  | commit hc => exact absurd hc hcmd

theorem Moves.indexesOk {s u : State} (h : Moves s u) (hcmd : s.fdc.cmd ≠ .writeTrack) (hs : s.IndexesOk) : u.IndexesOk := by
  induction h with
  | refl => exact hs
  | tail hmoves hmove ih =>
    refine hmove.indexesOk ?_ ih
    rw [(Moves.frame hmoves).keeps.cmd]
    exact hcmd

/-! ### The new index of a running Write Track (R289 to R293) -/

/-- The new index is ascending, behind the cursor and inside the track; the cursor is inside the track or past what the medium
can hold. -/
structure State.NewIndexOk (s : State) : Prop where
  rising : ascendingFrom 0 s.fdc.newIndex = true
  behind : ∀ e ∈ s.fdc.newIndex, e.offset < s.fdc.cursor
  inside : ∀ T, s.curTrack = some T →
    (∀ e ∈ s.fdc.newIndex, e.offset < T.len) ∧ (s.fdc.cursor ≤ T.len ∨ s.capacity ≤ s.fdc.cursor)

theorem State.NewIndexOk.congr {s u : State} (h : s.NewIndexOk) (hcfg : u.cfg = s.cfg) (hdrives : u.drives = s.drives)
    (hfdc : u.fdc = { u.fdc with
      newIndex := s.fdc.newIndex, cursor := s.fdc.cursor, selDrive := s.fdc.selDrive, side := s.fdc.side }) :
    u.NewIndexOk := by
  have hnew : u.fdc.newIndex = s.fdc.newIndex := by rw [hfdc]
  have hcursor : u.fdc.cursor = s.fdc.cursor := by rw [hfdc]
  have hsel : u.fdc.selDrive = s.fdc.selDrive := by rw [hfdc]
  have hside : u.fdc.side = s.fdc.side := by rw [hfdc]
  constructor
  · rw [hnew]
    exact h.rising
  · rw [hnew, hcursor]
    exact h.behind
  · rw [State.curTrack_congr hdrives hsel hside, State.capacity_congr hcfg hdrives hsel, hnew, hcursor]
    exact h.inside

/-- At the start of a track nothing is recorded yet. -/
theorem State.newIndexOk_of_start {s : State} (hnew : s.fdc.newIndex = []) (hcursor : s.fdc.cursor = 0) : s.NewIndexOk := by
  refine ⟨by rw [hnew]; rfl, by simp [hnew], fun T _ => ⟨by simp [hnew], .inl ?_⟩⟩
  rw [hcursor]
  exact Nat.zero_le _

/-- Putting a byte leaves the new index in order, and covers the byte's place when the medium has room for it (R288). -/
theorem State.NewIndexOk.wtPut {s : State} (h : s.NewIndexOk) (v : Byte) :
    (s.wtPut v).NewIndexOk ∧ (∀ T, (s.wtPut v).curTrack = some T → s.fdc.cursor < s.capacity → s.fdc.cursor < T.len) := by
  have hstride := s.stride_pos
  have hcursor := s.wtPut_cursor v
  have hnew : (s.wtPut v).fdc.newIndex = s.fdc.newIndex := by rw [State.wtPut_shape]
  have hbehind : ∀ e ∈ s.fdc.newIndex, e.offset < s.fdc.cursor + s.stride := fun e he => by
    have := h.behind e he
    omega
  cases hT : s.curTrack with
  | none =>
    have hnone := State.wtPut_curTrack_of_none hT v
    refine ⟨⟨by rw [hnew]; exact h.rising, by rw [hnew, hcursor]; exact hbehind, fun T' hT' => ?_⟩, fun T' hT' => ?_⟩ <;>
      exact absurd (hnone.symm.trans hT') (by simp)
  | some T =>
    obtain ⟨hin, hwhere⟩ := h.inside T hT
    obtain ⟨hmono, hreach, hcover⟩ := putRun_len v hwhere s.stride
    have hput := State.wtPut_curTrack_of_some hT v
    refine ⟨⟨by rw [hnew]; exact h.rising, by rw [hnew, hcursor]; exact hbehind, fun T' hT' => ?_⟩, fun T' hT' hroom => ?_⟩
    · cases hput.symm.trans hT'
      rw [hnew, hcursor, State.wtPut_capacity]
      exact ⟨fun e he => (hin e he).trans_le hmono, hreach⟩
    · cases hput.symm.trans hT'
      exact hcover hstride hroom

/-- Recording an ID mark at a place behind the cursor, past every recorded one, and inside the track (R290). -/
theorem State.NewIndexOk.recordIdam {s : State} (h : s.NewIndexOk) {pos : Nat} (hpast : ∀ e ∈ s.fdc.newIndex, e.offset < pos)
    (hpos : pos < s.fdc.cursor) (hin : ∀ T, s.curTrack = some T → pos < s.capacity → pos < T.len) (d : Bool) :
    (s.recordIdam pos d).NewIndexOk := by
  unfold State.recordIdam
  split_ifs with hroom
  · refine ⟨ascendingFrom_append h.rising hpast (by simp [ascendingFrom]) (Nat.zero_le _), ?_, fun T hT => ?_⟩
    · simp only [State.withFdc_fdc, List.forall_mem_append, List.forall_mem_singleton]
      exact ⟨h.behind, hpos⟩
    · have hT' : s.curTrack = some T := hT
      obtain ⟨hold, hwhere⟩ := h.inside T hT'
      refine ⟨?_, hwhere⟩
      simp only [State.withFdc_fdc, List.forall_mem_append, List.forall_mem_singleton]
      exact ⟨hold, hin T hT' hroom.2.1⟩
  · exact h

/-- A code byte keeps every index in order, the new one among them (R290). -/
theorem State.NewIndexOk.wtByte {s : State} (h : s.NewIndexOk) (hs : s.IndexesOk) (c : Byte) :
    (s.wtByte c).NewIndexOk ∧ (s.wtByte c).IndexesOk := by
  obtain ⟨f, v, g, d, hf, hg, he⟩ := s.wtByte_inv c
  have hpre : (s.withFdc f).NewIndexOk := h.congr rfl rfl (by rw [State.withFdc_fdc, hf])
  have hcursor : f.cursor = s.fdc.cursor := by rw [hf]
  have hnew : f.newIndex = s.fdc.newIndex := by rw [hf]
  obtain ⟨hput, hcover⟩ := hpre.wtPut v
  have hbyte : (((s.withFdc f).wtPut v).withFdc g).NewIndexOk := hput.congr rfl rfl (by rw [State.withFdc_fdc, hg])
  have hindexes : (((s.withFdc f).wtPut v).withFdc g).IndexesOk :=
    State.IndexesOk.congr (State.IndexesOk.wtPut (s := s.withFdc f) (hs.congr rfl rfl) v) rfl rfl
  rcases he with he | he
  · rw [he]
    exact ⟨hbyte, hindexes⟩
  · rw [he]
    have hstride := (s.withFdc f).stride_pos
    have hgcursor : g.cursor = s.fdc.cursor + (s.withFdc f).stride := by
      rw [hg, ← hcursor]
      exact State.wtPut_cursor _ v
    have hgnew : g.newIndex = s.fdc.newIndex := by
      rw [hg, State.wtPut_shape, ← hnew]
      rfl
    have hsel : g.selDrive = ((s.withFdc f).wtPut v).fdc.selDrive := by rw [hg]
    have hside : g.side = ((s.withFdc f).wtPut v).fdc.side := by rw [hg]
    have hcurTrack : (((s.withFdc f).wtPut v).withFdc g).curTrack = ((s.withFdc f).wtPut v).curTrack :=
      State.withFdc_curTrack hsel hside
    have hcapacity : (((s.withFdc f).wtPut v).withFdc g).capacity = (s.withFdc f).capacity :=
      (State.withFdc_capacity hsel).trans (State.wtPut_capacity _ v)
    constructor
    · refine hbyte.recordIdam ?_ ?_ ?_ d
      · rw [State.withFdc_fdc, hgnew]
        exact h.behind
      · rw [State.withFdc_fdc, hgcursor]
        omega
      · rw [hcurTrack, hcapacity, ← hcursor]
        exact hcover
    · unfold State.recordIdam
      split
      · exact hindexes.congr rfl rfl
      · exact hindexes

/-- A commit leaves every index in order (R292). -/
theorem State.NewIndexOk.wtCommit {s : State} (h : s.NewIndexOk) (hs : s.IndexesOk) (hform : s.Form)
    (hslots : s.fdc.newIndex.length ≤ s.cfg.idamSlots) : s.wtCommit.IndexesOk := by
  unfold State.wtCommit
  split
  · rename_i T hT
    obtain ⟨hin, -⟩ := h.inside T hT
    have hcap : T.len ≤ s.capacity := by
      have hbuf := (hform.curTrack hT).1
      simp only [Track.bufferOk, Bool.and_eq_true, decide_eq_true_eq] at hbuf
      obtain ⟨⟨⟨-, hle⟩, -⟩, -⟩ := hbuf
      exact hle
    refine hs.setCurTrack (Track.indexOk_iff.2 ⟨hslots, h.rising, fun e he => ?_⟩)
    have hbehind := h.behind e he
    have hinside := hin e he
    dsimp only
    omega
  · exact hs

/-- The index a Write Track cut short leaves is in order: the new entries lie behind the cursor, the old ones kept beyond it
(R293). -/
theorem State.NewIndexOk.wtAbort {s : State} (h : s.NewIndexOk) (hs : s.IndexesOk) : s.wtAbort.IndexesOk := by
  unfold State.wtAbort
  split
  · rename_i T hT
    obtain ⟨hin, -⟩ := h.inside T hT
    obtain ⟨-, hasc, hold⟩ := Track.indexOk_iff.1 (hs.curTrack hT)
    have hsub : (abortedIndex s.cfg.idamSlots s.fdc.cursor s.fdc.newIndex T).Sublist (s.fdc.newIndex ++ T.index.filter fun e =>
      decide (s.fdc.cursor ≤ e.offset) && decide (e.offset < T.len) && T.data.read e.offset == 0xFE) := List.take_sublist _ _
    have hkept : ∀ e ∈ T.index.filter (fun e =>
        decide (s.fdc.cursor ≤ e.offset) && decide (e.offset < T.len) && T.data.read e.offset == 0xFE),
        s.fdc.cursor ≤ e.offset ∧ e.offset < T.len := by
      intro e he
      have hcond := (List.mem_filter.1 he).2
      simp only [Bool.and_eq_true, decide_eq_true_eq] at hcond
      exact hcond.1
    refine hs.setCurTrack (Track.indexOk_iff.2 ⟨List.length_take_le _ _, ascendingFrom_sublist hsub ?_, fun e he => ?_⟩)
    · exact ascendingFrom_append h.rising h.behind
        (ascendingFrom_raise (ascendingFrom_sublist List.filter_sublist hasc) fun e he => (hkept e he).1) (Nat.zero_le _)
    · rcases List.mem_append.1 (hsub.subset he) with hnew | hfilter
      · exact hin e hnew
      · exact (hkept e hfilter).2
  · exact hs

end Sys2Proof.Machine
end

section
/-! PROOFS. Every handler, every chain and every Dispatch keeps the IDAM indexes in order (R69, R287 to R293). -/

namespace Sys2Proof.Machine

/-! ### The order of the indexes between two handlers -/

/-- The indexes are in order, the new one from the index hole on: empty before the first slot, in order behind the cursor while
Write Track writes. -/
structure State.Ordered (s : State) : Prop where
  indexes : s.IndexesOk
  hole : s.fdc.cmd = .writeTrack → s.fdc.op = .seekingIndexHole → s.fdc.newIndex = []
  write : s.fdc.cmd = .writeTrack → s.fdc.op = .writingTrack → s.NewIndexOk

/-- The order depends on the parameters, the drives, the running command's state, the new index and the head alone. -/
theorem State.Ordered.congr {s u : State} (h : s.Ordered) (hcfg : u.cfg = s.cfg) (hdrives : u.drives = s.drives)
    (hfdc : u.fdc = { u.fdc with
      cmd := s.fdc.cmd, op := s.fdc.op, newIndex := s.fdc.newIndex, cursor := s.fdc.cursor, selDrive := s.fdc.selDrive,
      side := s.fdc.side }) : u.Ordered := by
  have hcmd : u.fdc.cmd = s.fdc.cmd := by rw [hfdc]
  have hop : u.fdc.op = s.fdc.op := by rw [hfdc]
  have hnew : u.fdc.newIndex = s.fdc.newIndex := by rw [hfdc]
  constructor
  · exact h.indexes.congr hcfg hdrives
  · rw [hcmd, hop, hnew]
    exact h.hole
  · rw [hcmd, hop]
    exact fun hc ho => (h.write hc ho).congr hcfg hdrives (by rw [hfdc])

/-- The controller is past the index hole of a Write Track. -/
def Fdc.inTrack (f : Fdc) : Prop := f.cmd = .writeTrack ∧ (f.op = .seekingIndexHole ∨ f.op = .writingTrack)

/-- Nothing but the tracks' indexes matters outside a Write Track's slots. -/
theorem State.IndexesOk.ordered {s : State} (h : s.IndexesOk) (hout : ¬ s.fdc.inTrack) : s.Ordered :=
  ⟨h, fun hc ho => absurd ⟨hc, .inl ho⟩ hout, fun hc ho => absurd ⟨hc, .inr ho⟩ hout⟩

theorem State.ordered_of_indexInv {s : State} (h : s.IndexInv) (horder : s.Orderly) : s.Ordered := by
  have hbusy : s.fdc.op ≠ .opDone → s.fdc.busy = true := fun hop => by
    by_contra hidle
    exact hop (horder.idle (by simpa using hidle)).1
  refine ⟨h.indexes, fun hc ho => ?_, fun hc ho => ?_⟩
  · have hwait := horder.waiting (hbusy (by rw [ho]; decide))
    rw [hc, ho] at hwait
    exact absurd hwait (by decide)
  · have hwriting : s.writing = true := by
      simp [State.writing, hbusy (by rw [ho]; decide), hc, ho]
    exact ⟨h.rising hwriting, h.behind hwriting, h.inside hwriting⟩

theorem State.writing_iff {s : State} :
    s.writing = true ↔ s.fdc.busy = true ∧ s.fdc.cmd = .writeTrack ∧ s.fdc.op = .writingTrack := by
  simp [State.writing, and_assoc]

theorem State.Ordered.indexInv {s : State} (h : s.Ordered) : s.IndexInv := by
  have hnew : s.writing = true → s.NewIndexOk := fun hw => by
    obtain ⟨-, hcmd, hop⟩ := State.writing_iff.1 hw
    exact h.write hcmd hop
  exact ⟨h.indexes, fun hw => (hnew hw).rising, fun hw => (hnew hw).behind, fun hw => (hnew hw).inside⟩

/-! ### The handlers -/

/-- The order a handler's ending leaves: a transition enters its target in order. -/
def HandlerEnd.Ordered : HandlerEnd → Prop
  | .goto S _ u => (u.withFdc { u.fdc with op := S }).Ordered
  | .complete u => u.IndexesOk
  | .fatal _ u => u.Ordered

/-- A transition to a state before or after the track. -/
theorem HandlerEnd.ordered_goto {S : OpStatus} {d : Nat} {u : State} (h : u.IndexesOk) (hhole : S ≠ .seekingIndexHole)
    (hwrite : S ≠ .writingTrack) : (HandlerEnd.goto S d u).Ordered := by
  refine State.IndexesOk.ordered (s := u.withFdc { u.fdc with op := S }) (h.congr rfl rfl) ?_
  rintro ⟨-, hS | hS⟩
  · exact hhole hS
  · exact hwrite hS

/-- Another command than Write Track has no new index to keep in order. -/
theorem HandlerEnd.ordered_of_cmd {e : HandlerEnd} (h : e.state.IndexesOk) (hcmd : e.state.fdc.cmd ≠ .writeTrack) :
    e.Ordered := by
  cases e with
  | goto S d u => exact State.IndexesOk.ordered (s := u.withFdc _) (h.congr rfl rfl) fun hin => hcmd hin.1
  | complete u => exact h
  | fatal r u => exact State.IndexesOk.ordered h fun hin => hcmd hin.1

theorem onPrepareTypeI_ordered {s : State} (h : s.IndexesOk) : (onPrepareTypeI s).Ordered :=
  HandlerEnd.ordered_goto (h.congr rfl rfl) (by decide) (by decide)

theorem onPrepareTypeII_ordered {s : State} (h : s.IndexesOk) : (onPrepareTypeII s).Ordered := by
  have hbegin : (s.withFdc s.fdc.beginTypeII).IndexesOk := h.congr rfl rfl
  unfold onPrepareTypeII
  dsimp only
  split_ifs <;> exact HandlerEnd.ordered_goto hbegin (by decide) (by decide)

theorem State.IndexesOk.setError {s : State} (h : s.IndexesOk) (e : ErrorFlag) : (s.setError e).IndexesOk := by
  rw [State.setError_eq]
  exact h.congr rfl rfl

theorem onCheckWriteProtect_ordered {s : State} (h : s.IndexesOk) (hcmd : s.fdc.cmd = .writeTrack) :
    (onCheckWriteProtect s).Ordered := by
  unfold onCheckWriteProtect
  rw [hcmd]
  split
  · exact HandlerEnd.ordered_goto (h.setError _) (by decide) (by decide)
  · exact HandlerEnd.ordered_goto h (by decide) (by decide)

/-- The first-byte window ends with an empty new index (R286). -/
theorem onWriteTrackDrq_ordered {s : State} (h : s.IndexesOk) : (onWriteTrackDrq s).Ordered := by
  unfold onWriteTrackDrq
  dsimp only
  split_ifs
  · exact HandlerEnd.ordered_goto (h.congr rfl rfl) (by decide) (by decide)
  · exact HandlerEnd.ordered_goto (h.setError _) (by decide) (by decide)
  · exact ⟨h.congr rfl rfl, fun _ _ => rfl, fun _ hop => OpStatus.noConfusion (hop : OpStatus.seekingIndexHole = .writingTrack)⟩

/-- At the index hole the track starts at its first byte (R279). -/
theorem onSeekingIndexHole_ordered {s : State} (h : s.IndexesOk) (hcmd : s.fdc.cmd = .writeTrack)
    (hnew : s.fdc.newIndex = []) : (onSeekingIndexHole s).Ordered := by
  unfold onSeekingIndexHole
  rw [hcmd]
  exact ⟨h.congr rfl rfl, fun _ hop => OpStatus.noConfusion (hop : OpStatus.writingTrack = .seekingIndexHole),
    fun _ _ => State.newIndexOk_of_start hnew rfl⟩

/-- The end of a slot: the next one, or the commit of the track (R287). -/
theorem endWriteSlot_ordered {s : State} (h : s.IndexesOk) (hnew : s.NewIndexOk) (hcore : s.Core) (consumed : Bool) :
    (endWriteSlot s consumed).Ordered := by
  have hslot : (s.withFdc { s.fdc with slot := s.fdc.slot + 1 }).NewIndexOk := hnew.congr rfl rfl rfl
  have hindexes : (s.withFdc { s.fdc with slot := s.fdc.slot + 1 }).IndexesOk := h.congr rfl rfl
  unfold endWriteSlot
  dsimp only
  split
  · refine ⟨?_, fun _ hop => OpStatus.noConfusion (hop : OpStatus.writingTrack = .seekingIndexHole), fun _ _ => ?_⟩
    · cases consumed <;> exact hindexes.congr rfl rfl
    · cases consumed <;> exact hslot.congr rfl rfl rfl
  · exact HandlerEnd.ordered_goto (hslot.wtCommit hindexes ⟨hcore.form.heads, hcore.form.media⟩ hcore.newIndex) (by decide)
      (by decide)

/-- One slot of a Write Track: a pending CRC byte, or the Host's byte with its code (R287). -/
theorem onWritingTrack_ordered {s : State} (h : s.IndexesOk) (hnew : s.NewIndexOk) (hcore : s.Core) :
    (onWritingTrack s).Ordered := by
  unfold onWritingTrack
  split
  · rename_i lo _
    have hmoves : Moves s ((s.wtPut lo).withFdc { (s.wtPut lo).fdc with pendingCrcLo := none }) :=
      (Moves.wtPut .refl lo).update rfl
    refine endWriteSlot_ordered ?_ ?_ (hmoves.acts.core hcore) false
    · exact State.IndexesOk.congr (h.wtPut lo) rfl rfl
    · exact (hnew.wtPut lo).1.congr rfl rfl rfl
  · have hlost : s.noteLost = s.withFdc (if s.fdc.drq then reports s.fdc .lostData else s.fdc) := State.noteLost_eq s
    have hnew' : s.noteLost.NewIndexOk := by
      rw [hlost]
      refine hnew.congr rfl rfl ?_
      split_ifs
      · rw [State.withFdc_fdc, reports_shape]
      · rfl
    have hindexes : s.noteLost.IndexesOk := by
      rw [hlost]
      exact h.congr rfl rfl
    obtain ⟨hbyte, hbyteIndexes⟩ := hnew'.wtByte hindexes s.hostByte
    exact endWriteSlot_ordered hbyteIndexes hbyte (((Moves.noteLost .refl).wtByte s.hostByte).acts.core hcore) true

/-- Write Track's handlers keep the order. -/
theorem runHandler_writeTrack_ordered {s : State} (h : s.Ordered) (hcore : s.Core) (hcmd : s.fdc.cmd = .writeTrack) :
    (runHandler s).Ordered := by
  have hhole := h.hole hcmd
  have hwrite := h.write hcmd
  unfold runHandler onPrepare onTypeIStep onDelay
  rw [hcmd]
  revert hhole hwrite
  cases s.fdc.op with
  | prepare => exact fun _ _ => onPrepareTypeII_ordered h.indexes
  | delay => exact fun _ _ => HandlerEnd.ordered_goto h.indexes (by decide) (by decide)
  | checkWriteProtect => exact fun _ _ => onCheckWriteProtect_ordered h.indexes hcmd
  | writeTrackDrq => exact fun _ _ => onWriteTrackDrq_ordered h.indexes
  | seekingIndexHole => exact fun hhole _ => onSeekingIndexHole_ordered h.indexes hcmd (hhole rfl)
  | writingTrack => exact fun _ hwrite => onWritingTrack_ordered h.indexes (hwrite rfl) hcore
  | nmi => exact fun _ _ => h.indexes
  | typeIStep | checkVerify | verifySettle | verifyTrack | searchStart | seekingIdam | readingAddressData | seekingDam
  | readingData | readCrc | writeGap | writingFiller | writingDam | writingData | writeCrc | writeTrailer | readingTrack
  | opDone => exact fun _ _ => h

theorem runHandler_ordered {s : State} (h : s.Ordered) (hcore : s.Core) : (runHandler s).Ordered := by
  by_cases hcmd : s.fdc.cmd = .writeTrack
  · exact runHandler_writeTrack_ordered h hcore hcmd
  · refine HandlerEnd.ordered_of_cmd ((runHandler_moves s).indexesOk hcmd h.indexes) ?_
    rw [(runHandler_frame s).keeps.cmd]
    exact hcmd

/-! ### Chains, callbacks and Dispatch -/

theorem fdcStepEnd_ordered {s : State} (h : s.Ordered) (hcore : s.Core) : (fdcStepEnd s).Ordered := by
  have hforget : (s.withFdc { s.fdc with cmdPulse := none }).Ordered := h.congr rfl rfl rfl
  unfold fdcStepEnd
  dsimp only
  split
  · exact runHandler_ordered hforget (hcore.withFdc hcore.oneError hcore.newIndex hcore.selected)
  · exact hforget

/-- Carrying an ending out keeps the order (R147). -/
theorem finish_ordered (fuel : Nat) : ∀ e : HandlerEnd, e.Ordered → e.state.Core → (finish fuel e).Ordered := by
  have hcomplete : ∀ u : State, u.IndexesOk → u.complete.Ordered := fun u hu =>
    State.IndexesOk.ordered (s := u.complete) (hu.congr rfl rfl) (by rintro ⟨-, hop | hop⟩ <;> cases hop)
  induction fuel with
  | zero =>
    intro e h hcore
    cases e with
    | goto S d u =>
      unfold finish
      split_ifs
      · exact State.Ordered.congr h rfl rfl rfl
      · rw [gotoAfter_eq]
        exact State.Ordered.congr h rfl rfl rfl
    | complete u => exact hcomplete u h
    | fatal r u => exact State.Ordered.congr h rfl rfl rfl
  | succ fuel ih =>
    intro e h hcore
    cases e with
    | goto S d u =>
      have hop : (u.withFdc { u.fdc with op := S }).Core := hcore.withFdc hcore.oneError hcore.newIndex hcore.selected
      unfold finish
      split_ifs
      · have hhandle : (u.withFdc { u.fdc with op := S }).takeHandle.Ordered := State.Ordered.congr h rfl rfl rfl
        exact ih _ (fdcStepEnd_ordered hhandle ((Acts.takeHandle .refl).core hop)) ((gotoNow_acts _).core hop)
      · rw [gotoAfter_eq]
        exact State.Ordered.congr h rfl rfl rfl
    | complete u => exact hcomplete u h
    | fatal r u => exact State.Ordered.congr h rfl rfl rfl

theorem State.Ordered.fdcStep {s : State} (h : s.Ordered) (hcore : s.Core) : s.fdcStep.Ordered :=
  finish_ordered _ _ (fdcStepEnd_ordered h hcore) ((fdcStepEnd_acts s).core hcore)

theorem State.Ordered.readyEdge {s : State} (h : s.Ordered) : s.readyEdge.Ordered := by
  rw [State.readyEdge_eq]
  exact h.congr rfl rfl rfl

theorem State.Ordered.invoke {s : State} (h : s.Ordered) (hcore : s.Core) (cb : Callback) : (s.invoke cb).Ordered := by
  cases cb with
  | fdcStep => exact h.fdcStep hcore
  | motorOff =>
    have hoff : ({ s with motorPulse := none, motorOn := false, motorIrq := true } : State).Ordered := h.congr rfl rfl rfl
    exact hoff.readyEdge
  | indexIrq => exact h.congr rfl rfl rfl
  | external => exact h

/-- Dispatch keeps the order (R145). -/
theorem dispatchLoop_ordered (fuel : Nat) : ∀ s : State, s.Core → s.Ordered → (dispatchLoop fuel s).Ordered := by
  induction fuel with
  | zero =>
    intro s _ h
    unfold dispatchLoop
    dsimp only
    split_ifs <;> exact h.congr rfl rfl rfl
  | succ fuel ih =>
    intro s hcore h
    have hcore' : ({ s with clk := s.clk.dropExpired } : State).Core := hcore.withClock hcore.clock.drop
    unfold dispatchLoop
    dsimp only
    split
    · exact h.congr rfl rfl rfl
    · rename_i e he
      obtain ⟨hmem, -⟩ := Clock.nextDue_eq_some he
      have htake : ({ s with clk := s.clk.dropExpired.take e } : State).Ordered := h.congr rfl rfl rfl
      have hfire := htake.invoke (hcore'.withClock (hcore'.clock.take hmem)) e.cb
      split_ifs
      · exact hfire
      · exact ih _ ((State.fire_acts hmem).core hcore') hfire

theorem State.Ordered.dispatchDue {s : State} (h : s.Ordered) (hcore : s.Core) : s.dispatchDue.Ordered :=
  dispatchLoop_ordered _ s hcore h

theorem State.Ordered.advanceBy {s : State} (h : s.Ordered) (hcore : s.Core) (n : Nat) : (s.advanceBy n).Ordered := by
  rcases s.advanceBy_cases n with he | ⟨k, hk, he⟩
  · rw [he]
    exact h.congr rfl rfl rfl
  · have htick : (s.atTick (s.clk.ticks + k * s.cfg.ticksPerTstate)).Ordered := h.congr rfl rfl rfl
    rw [he]
    exact htick.dispatchDue (hcore.atTick hk)

end Sys2Proof.Machine
end

section
/-! PROOFS. Commands, selects, resets and the Operator's actions keep the IDAM indexes in order while the track stays under the
head, and so does every step (R69, R293, R452, R453). -/

namespace Sys2Proof.Machine

/-! ### Commands -/

/-- The indexes in order under legal parameters, and no Write Track to record a new one. -/
structure State.OffTrack (s : State) : Prop where
  legal : legalConfig s.cfg = true
  indexes : s.IndexesOk
  cmd : s.fdc.cmd ≠ .writeTrack

theorem State.OffTrack.congr {s u : State} (h : s.OffTrack) (hcfg : u.cfg = s.cfg) (hdrives : u.drives = s.drives)
    (hcmd : u.fdc.cmd = s.fdc.cmd) : u.OffTrack :=
  ⟨hcfg ▸ h.legal, h.indexes.congr hcfg hdrives, hcmd ▸ h.cmd⟩

theorem State.OffTrack.ordered {s : State} (h : s.OffTrack) : s.Ordered := h.indexes.ordered fun hin => h.cmd hin.1

/-- Terminating a Write Track leaves an index in order (R301). -/
theorem State.OffTrack.terminate {s : State} (h : s.OffTrack) {prevCmd : CmdKind}
    (hnew : prevCmd = .writeTrack → s.fdc.op = .writingTrack → s.NewIndexOk) : (s.terminate prevCmd).OffTrack := by
  have hexpire : (s.expireOpt s.fdc.cmdPulse).OffTrack := by
    rw [State.expireOpt_eq]
    exact h.congr rfl rfl rfl
  have hop : (s.expireOpt s.fdc.cmdPulse).fdc.op = s.fdc.op := by rw [State.expireOpt_eq]
  unfold State.terminate
  dsimp only
  split
  · rename_i hwriting
    obtain ⟨hprev, hw⟩ := hwriting
    have habort : (s.expireOpt s.fdc.cmdPulse).wtAbort.IndexesOk := by
      refine State.NewIndexOk.wtAbort ?_ hexpire.indexes
      rw [State.expireOpt_eq]
      exact (hnew hprev (hop ▸ hw)).congr rfl rfl rfl
    have hoff : (s.expireOpt s.fdc.cmdPulse).wtAbort.OffTrack := by
      refine ⟨?_, habort, ?_⟩ <;> rw [State.wtAbort_shape]
      · exact hexpire.legal
      · exact hexpire.cmd
    exact hoff.congr rfl rfl rfl
  · exact hexpire.congr rfl rfl rfl

theorem State.OffTrack.armIndex {s : State} (h : s.OffTrack) : s.armIndex.OffTrack := by
  rw [State.armIndex_eq h.legal]
  exact h.congr rfl rfl rfl

/-- Force Interrupt leaves every index in order (R300). -/
theorem State.OffTrack.forceInterrupt {s : State} (h : s.OffTrack) {prevCmd : CmdKind}
    (hnew : prevCmd = .writeTrack → s.fdc.op = .writingTrack → s.NewIndexOk) : (s.forceInterrupt prevCmd).OffTrack := by
  have hrest : (if s.fdc.busy then s.terminate prevCmd else s.withFdc { s.fdc with statusMode := .typeI }).OffTrack := by
    split
    · exact h.terminate hnew
    · exact h.congr rfl rfl rfl
  have hlatch : ∀ (b : Bool) (u : State), u.OffTrack → (if b then u.latchIntrq else u).OffTrack := by
    intro b u hu
    split
    · exact hu.congr rfl rfl rfl
    · exact hu
  have harm : ∀ (b : Bool) (u : State), u.OffTrack → (if b then u.armIndex else u).OffTrack := by
    intro b u hu
    split
    · exact hu.armIndex
    · exact hu
  exact (harm (s.fdc.cr.getLsbD 2) _ (hlatch (s.fdc.cr.getLsbD 3) _ hrest)).congr rfl rfl rfl

/-- A Type I, II or III command starts its chain in order. -/
theorem State.startCommand_ordered {s : State} (h : s.IndexesOk) (hcore : s.Core) {k : CmdKind} (hk : k ≠ .forceInterrupt)
    (prevCmd : CmdKind) : (s.startCommand k prevCmd).Ordered := by
  have hop : (s.withFdc { s.fdc with op := .prepare }).IndexesOk := h.congr rfl rfl
  have hopCore : (s.withFdc { s.fdc with op := .prepare }).Core :=
    hcore.withFdc hcore.oneError hcore.newIndex hcore.selected
  have htypeII : (onPrepareTypeII (s.withFdc { s.fdc with op := .prepare })).run.Ordered :=
    finish_ordered _ _ (onPrepareTypeII_ordered hop) ((Moves.acts (onPrepareTypeII_moves _)).core hopCore)
  unfold State.startCommand
  split
  · exact finish_ordered _ _ (onPrepareTypeI_ordered hop) ((Moves.acts (onPrepareTypeI_moves _)).core hopCore)
  · exact htypeII
  · exact htypeII
  · rename_i htype
    cases k <;> simp [CmdKind.type] at htype hk

/-- WriteCommand keeps the order (R171). -/
theorem State.Ordered.writeCommand {s : State} (h : s.Ordered) (hcore : s.Core) (v : Byte) : (s.writeCommand v).Ordered := by
  have haccepted : (s.acceptCommand v).IndexesOk := by
    rw [State.acceptCommand_eq]
    exact h.indexes.congr rfl rfl
  have hfdc := s.acceptCommand_fdc v
  unfold State.writeCommand
  split
  · exact h
  · by_cases hk : kindOf v = .forceInterrupt
    · have hoff : (s.acceptCommand v).OffTrack := by
        refine ⟨s.acceptCommand_cfg v ▸ hcore.legal, haccepted, ?_⟩
        rw [hfdc, hk]
        exact CmdKind.noConfusion
      have hnew : s.fdc.cmd = .writeTrack → (s.acceptCommand v).fdc.op = .writingTrack → (s.acceptCommand v).NewIndexOk := by
        intro hcmd hop
        rw [hfdc] at hop
        rw [State.acceptCommand_eq]
        exact (h.write hcmd hop).congr rfl rfl rfl
      rw [hk]
      exact (hoff.forceInterrupt hnew).ordered
    · exact State.startCommand_ordered haccepted ((Acts.acceptCommand .refl v).core hcore) hk _

/-! ### Selects (R179, R452) -/

/-- The controller is in the slots of a Write Track. -/
def Fdc.inSlots (f : Fdc) : Prop := f.cmd = .writeTrack ∧ f.op = .writingTrack

theorem State.Orderly.writing_of_inSlots {s : State} (h : s.Orderly) (hin : s.fdc.inSlots) : s.writing = true := by
  obtain ⟨hcmd, hop⟩ := hin
  refine State.writing_iff.2 ⟨?_, hcmd, hop⟩
  by_contra hidle
  have hdone := (h.idle (by simpa using hidle)).1
  rw [hop] at hdone
  cases hdone

/-- Outside the slots the head may go to another drive or side. -/
theorem State.Ordered.withHead {s : State} (h : s.Ordered) (hout : ¬ s.fdc.inSlots) {f : Fdc}
    (hf : s.fdc = { f with
      selDrive := s.fdc.selDrive, side := s.fdc.side, dd := s.fdc.dd, waitReq := s.fdc.waitReq,
      cursor := s.fdc.cursor }) : (s.withFdc f).Ordered := by
  have hcmd : f.cmd = s.fdc.cmd := by rw [hf]
  have hop : f.op = s.fdc.op := by rw [hf]
  have hnew : f.newIndex = s.fdc.newIndex := by rw [hf]
  refine ⟨h.indexes.congr rfl rfl, fun hc ho => ?_, fun hc ho => absurd ⟨hcmd ▸ hc, hop ▸ ho⟩ hout⟩
  exact hnew.trans (h.hole (hcmd ▸ hc) (hop ▸ ho))

/-- Outside the slots a select keeps the order. -/
theorem State.Ordered.select {s : State} (h : s.Ordered) (hl : legalConfig s.cfg = true) (hout : ¬ s.fdc.inSlots) {f : Fdc}
    (hf : s.fdc = { f with
      selDrive := s.fdc.selDrive, side := s.fdc.side, dd := s.fdc.dd, waitReq := s.fdc.waitReq }) (driveBit : Bool) :
    (s.select f driveBit).Ordered := by
  have hredirected : ((s.withFdc f).redirected s.fdc).Ordered := by
    rw [State.redirected_eq]
    exact h.withHead hout (by rw [hf]; rfl)
  have hcfg : ((s.withFdc f).redirected s.fdc).cfg = s.cfg := by rw [State.redirected_eq]; rfl
  unfold State.select
  dsimp only
  split
  · rw [State.retriggerMotor_eq (by rw [hcfg]; exact hl)]
    exact State.Ordered.readyEdge (hredirected.congr rfl rfl rfl)
  · exact hredirected.readyEdge

/-! ### The scheduler's calls -/

/-- Registering an External entry that is no caller error changes no index (R143). -/
theorem State.Ordered.registerExternal {s : State} (h : s.Ordered) {delay period : Nat} {periodic : Bool}
    (hper : periodic = true → delay ≠ 0 ∧ period ≠ 0) : (s.registerPulse .external delay periodic period).Ordered := by
  by_cases hd : delay = 0
  · have hp : periodic = false := by
      by_contra hp
      exact (hper (by simpa using hp)).1 hd
    have hnow : s.registerPulse .external delay periodic period = s.takeHandle := by
      simp [State.registerPulse, hd, hp, State.invoke]
    rw [hnow]
    exact h.congr rfl rfl rfl
  · rw [State.registerPulse_waits s .external (Nat.pos_of_ne_zero hd) fun hp => Nat.pos_of_ne_zero (hper hp).2]
    exact h.congr rfl rfl rfl

theorem Effect.ordered {s t : State} {i : Instr} (he : Effect s i t) (h : s.Ordered) (hcore : s.Core)
    (hi : i.rawCall = false) (hkeep : s.fdc.inSlots → (Event.instr i s).keepsTrack = true) : t.Ordered := by
  have hunit : ({ s with inUnit := true } : State).Ordered := h.congr rfl rfl rfl
  cases he with
  | command _ v _ => exact hunit.writeCommand (hcore.congr rfl rfl rfl rfl) v
  | port _ f d _ hf => exact h.congr rfl rfl (by rw [hf])
  | select v =>
    unfold State.writeSelect
    exact hunit.select hcore.legal (fun hin => absurd (hkeep hin) Bool.false_ne_true) (by rfl) _
  | advance n => exact h.advanceBy hcore n
  | registerPulse cb delay periodic period =>
    obtain ⟨rfl, hper⟩ : cb = .external ∧ (periodic = true → delay ≠ 0 ∧ period ≠ 0) := by
      simpa [Instr.rawCall] using hi
    exact (h.registerExternal hper).congr rfl rfl rfl
  | expire handle => exact h.congr rfl rfl rfl
  | dispatch => exact h.dispatchDue hcore
  | goto => cases hi

/-! ### Reset and the Operator (R440, R373) -/

theorem State.IndexesOk.setMedium {s : State} (h : s.IndexesOk) (n : Fin 4) {m : Option Medium}
    (hm : ∀ m', m = some m' → ∀ T ∈ m'.tracks, T.indexOk s.cfg = true) : (s.setMedium n m).IndexesOk :=
  State.AllMedia.setMedium h n hm

/-- Outside the slots a medium may come in, go out or change. -/
theorem State.Ordered.setMedium {s : State} (h : s.Ordered) (hout : ¬ s.fdc.inSlots) (n : Fin 4) {m : Option Medium}
    (hm : ∀ m', m = some m' → ∀ T ∈ m'.tracks, T.indexOk s.cfg = true) : (s.setMedium n m).Ordered :=
  ⟨h.indexes.setMedium n hm, h.hole, fun hc ho => absurd ⟨hc, ho⟩ hout⟩

/-- A new label leaves the tracks and their capacity. -/
theorem State.label_tracks {s : State} {n : Fin 4} {m m' : Medium} (hm : (s.drive n).medium = some m)
    (hm' : m' = { m with writeProtected := m'.writeProtected, changed := m'.changed, path := m'.path }) :
    (s.setMedium n (some m')).curTrack = s.curTrack ∧ (s.setMedium n (some m')).capacity = s.capacity := by
  have htrack : m'.track = m.track := by
    rw [hm']
    rfl
  have hdecl : m'.declLen = m.declLen := by rw [hm']
  have hsel : (s.setMedium n (some m')).fdc = s.fdc := rfl
  unfold State.curTrack State.capacity State.curMedium
  rw [hsel]
  cases s.fdc.selDrive with
  | none => exact ⟨rfl, rfl⟩
  | some k =>
    dsimp only
    rw [State.drive_setMedium]
    split_ifs with hk
    · subst hk
      rw [hm]
      dsimp only
      rw [htrack, hdecl]
      exact ⟨rfl, rfl⟩
    · exact ⟨rfl, rfl⟩

/-- Reset() commits the index of a running Write Track, then the controller is idle (R440). -/
theorem State.Ordered.hardReset {s : State} (h : s.Ordered) : s.hardReset.Ordered := by
  have habort : s.abortIfWriting.IndexesOk := by
    unfold State.abortIfWriting
    split
    · rename_i hwriting
      obtain ⟨-, hcmd, hop⟩ := hwriting
      exact (h.write hcmd hop).wtAbort h.indexes
    · exact h.indexes
  refine State.IndexesOk.ordered ?_ ?_
  · intro n m hm
    rw [State.hardReset_drive] at hm
    rw [State.hardReset_cfg, ← s.abortIfWriting_cfg]
    exact habort n m hm
  · rintro ⟨hcmd, -⟩
    cases hcmd

theorem OperatorEffect.ordered {s t : State} {a : OperatorAction} (he : OperatorEffect s a t) (h : s.Ordered)
    (hcore : s.Core) (hkeep : s.fdc.inSlots → (Event.operator a s).keepsTrack = true) : t.Ordered := by
  have hout : (Event.operator a s).keepsTrack = false → ¬ s.fdc.inSlots := fun ha hin =>
    absurd (hkeep hin) (by rw [ha]; exact Bool.false_ne_true)
  cases he with
  | mount a n m hm ha =>
    refine State.Ordered.readyEdge (h.setMedium (hout (ha s)) n fun m' hm' T hT => ?_)
    cases hm'
    exact ((Medium.wf_iff.1 hm).2 T hT).2
  | eject a n ha => exact State.Ordered.readyEdge (h.setMedium (hout (ha s)) n fun m' hm' => by cases hm')
  | label a n m m' hm hm' image =>
    have hindexes := h.indexes.setMedium n (m := some m') fun m'' hm'' => by
      cases hm''
      rw [hm']
      exact h.indexes n m hm
    obtain ⟨hcur, hcap⟩ := State.label_tracks hm hm'
    have hlabel : (s.setMedium n (some m')).Ordered := by
      refine ⟨hindexes, h.hole, fun hc ho => ⟨(h.write hc ho).rising, (h.write hc ho).behind, ?_⟩⟩
      rw [hcur, hcap]
      exact (h.write hc ho).inside
    exact hlabel.congr rfl rfl rfl
  | idle => exact h
  | rewrite n t side d m T T' hm hT hT' =>
    refine h.setMedium (hout rfl) n fun m'' hm'' x hx => ?_
    cases hm''
    rcases Medium.mem_setTrack hx with hold | rfl
    · exact h.indexes n m hm x hold
    · exact (Medium.rewriteTrack_wf (hcore.form.media n m hm) hT hT').2
  | reset => exact h.hardReset

/-! ### Every step -/

/-- Settles O59: handlers, chains and Dispatch keep the order; a commit and an abort leave the new index, which lies in order
behind the cursor and inside the track; whatever turns the head or changes its medium comes before or after the track. -/
theorem stepKeepsIndexOrder : Obligations.StepKeepsIndexOrder := by
  unfold Obligations.StepKeepsIndexOrder
  intro s t hs hseq hindex hraw hkeep hstep
  obtain ⟨hfault, hcase⟩ := step_inv hstep
  have hcore : s.Core := (State.inv_iff.1 hs).1
  have horder : s.Orderly := State.orderly_of_seqInv hseq hfault
  have h : s.Ordered := State.ordered_of_indexInv hindex horder
  have hfeed : ∀ script rest, (s.feed script rest).Ordered := fun _ _ => h.congr rfl rfl rfl
  have hfeedCore : ∀ script rest, (s.feed script rest).Core := fun _ _ => hcore.congr rfl rfl rfl rfl
  have hunit : ∀ script rest, ({ (s.feed script rest) with inUnit := true } : State).Ordered := fun _ _ =>
    h.congr rfl rfl rfl
  have hkeep' : s.fdc.inSlots → s.nextEvent.keepsTrack = true := fun hin => hkeep (horder.writing_of_inSlots hin)
  refine State.Ordered.indexInv ?_
  cases hcase with
  | operator a script rest hevent hop =>
    rw [hevent] at hkeep'
    exact (operate_inv hop).ordered (hfeed script rest) (hfeedCore script rest) hkeep'
  | held _ ht =>
    rw [ht]
    exact h.advanceBy hcore _
  | instr i script rest hevent hexec =>
    have hi := hraw i _ hevent
    rw [hevent] at hkeep'
    exact (exec_inv hexec).2.ordered (hfeed script rest) (hfeedCore script rest) hi hkeep'
  | select n side script rest hevent ht =>
    rw [hevent] at hkeep'
    rw [ht]
    unfold State.selectDrive
    exact (hunit script rest).select hcore.legal (fun hin => absurd (hkeep' hin) Bool.false_ne_true) (by rfl) true
  | reset script rest _ ht =>
    rw [ht]
    exact (hunit script rest).hardReset

end Sys2Proof.Machine
end

section
/-! PROOFS. The bytes of a medium: a port access, a select, a command write and the zero-delay chain it starts leave every one
of them as it was (R80, R148, R212, R259). -/

namespace Sys2Proof.Machine

/-! ### Operations that keep every byte -/

theorem sameBytes_refl (s : State) : sameBytes s s := fun _ _ _ _ => rfl

theorem sameBytes.trans {s u w : State} (h₁ : sameBytes s u) (h₂ : sameBytes u w) : sameBytes s w :=
  fun n t side pos => (h₂ n t side pos).trans (h₁ n t side pos)

theorem sameBytes_of_drives {s u : State} (h : u.drives = s.drives) : sameBytes s u := State.trackByte_congr h

/-- A byte depends on the medium alone, not on where the drive's head stands. -/
theorem sameBytes_of_media {s u : State} (h : ∀ n, (u.drive n).medium = (s.drive n).medium) : sameBytes s u :=
  fun n t side pos => by simp only [State.trackByte, h n]

theorem sameBytes_stepHead (s : State) (dir : StepDir) : sameBytes s (s.stepHead dir) :=
  sameBytes_of_media fun n => by
    rw [State.stepHead_drive]
    split_ifs <;> rfl

/-- The bytes of the current track (R81). -/
theorem State.trackByte_of_curTrack {s : State} {T : Track} (h : s.curTrack = some T) {n : Fin 4} {t : Nat} {side : Bool}
    (hhere : s.fdc.selDrive = some n ∧ t = (s.drive n).physTrack ∧ side = s.fdc.side) (pos : Nat) :
    s.trackByte n t side pos = if pos < T.len then some (T.data.read pos) else none := by
  obtain ⟨hn, rfl, rfl⟩ := hhere
  obtain ⟨n', m, hn', hm, hT⟩ := State.curTrack_eq_some h
  cases hn.symm.trans hn'
  simp only [State.trackByte, hm, hT]

/-- The current track under another index has the bytes it had. -/
theorem sameBytes_setCurTrack_index {s : State} {T : Track} (h : s.curTrack = some T) (index : List IdamEntry) (c : Bool) :
    sameBytes s (s.setCurTrack { T with index := index } c) := by
  intro n t side pos
  rw [State.trackByte_setCurTrack _ _ h]
  by_cases hhere : s.fdc.selDrive = some n ∧ t = (s.drive n).physTrack ∧ side = s.fdc.side
  · rw [if_pos hhere, State.trackByte_of_curTrack h hhere]
  · rw [if_neg hhere]

/-- Cutting a Write Track short writes an index and no byte (R293). -/
theorem sameBytes_wtAbort (s : State) : sameBytes s s.wtAbort := by
  unfold State.wtAbort
  split
  · exact sameBytes_setCurTrack_index ‹_› _ _
  · exact sameBytes_refl s

/-! ### The chain a command write starts (R171, R201, R230) -/

/-- The zero-delay chain from Prepare may enter `S` in this state: it writes in none of these. Write Track passes WriteTrackDrq
with `count = 0`, where it waits for its first byte (R286), so the chain does not reach the slots that write. -/
def State.Opening (s : State) : OpStatus → Prop
  | .typeIStep | .checkVerify | .searchStart | .readingTrack | .nmi => True
  | .delay | .checkWriteProtect | .writeTrackDrq => s.fdc.count = 0
  | .seekingIndexHole => s.fdc.cmd = .readTrack
  | _ => False

/-- A handler of the chain changes no byte, and stays in the chain or waits. -/
def HandlerEnd.Opens (s : State) (e : HandlerEnd) : Prop :=
  sameBytes s e.state ∧ ∀ S u, e = .goto S 0 u → u.Opening S

theorem HandlerEnd.Opens.now {s u : State} {S : OpStatus} (hbytes : sameBytes s u) (hopen : u.Opening S) :
    HandlerEnd.Opens s (.goto S 0 u) :=
  ⟨hbytes, fun _ _ he => by cases he; exact hopen⟩

theorem HandlerEnd.Opens.later {s u : State} {S : OpStatus} {d : Nat} (hbytes : sameBytes s u) (hd : 0 < d) :
    HandlerEnd.Opens s (.goto S d u) :=
  ⟨hbytes, fun _ _ he => by cases he; exact absurd hd (Nat.lt_irrefl 0)⟩

theorem HandlerEnd.Opens.fatal {s u : State} (hbytes : sameBytes s u) (r : FaultReason) : HandlerEnd.Opens s (.fatal r u) :=
  ⟨hbytes, fun _ _ he => by cases he⟩

theorem HandlerEnd.Opens.complete {s u : State} (hbytes : sameBytes s u) : HandlerEnd.Opens s (.complete u) :=
  ⟨hbytes, fun _ _ he => by cases he⟩

theorem onlyFor_opens {allowed : Bool} {h : State → HandlerEnd} {s : State} (hh : allowed = true → (h s).Opens s) :
    (onlyFor allowed h s).Opens s := by
  unfold onlyFor
  split_ifs with ha
  · exact hh ha
  · exact .fatal (sameBytes_refl s) _

section Handlers
variable {s : State}

theorem onPrepareTypeI_opens : (onPrepareTypeI s).Opens s := .now (sameBytes_of_drives rfl) trivial

theorem onDelay_opens (hcount : s.fdc.count = 0) : (onDelay s).Opens s := by
  unfold onDelay
  split
  case h_5 hcmd => exact .now (sameBytes_refl s) hcmd
  case h_6 => exact .fatal (sameBytes_refl s) _
  case h_1 | h_2 => exact .now (sameBytes_refl s) trivial
  case h_3 | h_4 => exact .now (sameBytes_refl s) hcount

theorem onCheckWriteProtect_opens (hcount : s.fdc.count = 0) : (onCheckWriteProtect s).Opens s := by
  unfold onCheckWriteProtect
  split_ifs
  · exact .now (sameBytes_of_drives (State.setError_drives s _)) trivial
  · split
    · exact .now (sameBytes_refl s) trivial
    · exact .now (sameBytes_refl s) hcount
    · exact .fatal (sameBytes_refl s) _

/-- Read Track may read its first slot at once, when the index is now (R279). -/
theorem onSeekingIndexHole_opens (hcmd : s.fdc.cmd = .readTrack) : (onSeekingIndexHole s).Opens s := by
  unfold onSeekingIndexHole
  rw [if_pos hcmd]
  refine ⟨sameBytes_of_drives rfl, fun S u he => ?_⟩
  obtain ⟨rfl, -⟩ := HandlerEnd.goto.inj he
  trivial

variable (hl : legalConfig s.cfg = true)
include hl

theorem onPrepareTypeII_opens : (onPrepareTypeII s).Opens s := by
  have hbytes : sameBytes s (s.withFdc s.fdc.beginTypeII) := sameBytes_of_drives rfl
  unfold onPrepareTypeII
  dsimp only
  split_ifs
  · exact .later hbytes (State.settleDelay_pos (s := s.withFdc s.fdc.beginTypeII) hl)
  · exact .now hbytes rfl
  · exact .now hbytes trivial

theorem onRestoreStep_opens : (onRestoreStep s).Opens s := by
  unfold onRestoreStep
  split_ifs
  · exact .now (sameBytes_of_drives rfl) trivial
  · exact .now (sameBytes_of_drives (State.setError_drives s _)) trivial
  · exact .later (sameBytes_stepHead (s.withFdc _) _) (State.stepDelay_pos hl)

theorem onSeekStep_opens : (onSeekStep s).Opens s := by
  unfold onSeekStep
  dsimp only
  split_ifs
  · exact .now (sameBytes_refl s) trivial
  · exact .now (sameBytes_of_drives rfl) trivial
  · exact .later (sameBytes_stepHead (s.withFdc _) _) (State.stepDelay_pos hl)

theorem onStepStep_opens : (onStepStep s).Opens s := by
  unfold onStepStep
  dsimp only
  split
  · exact .now (sameBytes_refl s) trivial
  · split
    · exact .now (sameBytes_of_drives rfl) trivial
    · exact .later (sameBytes_stepHead (s.withFdc _) _) (State.stepDelay_pos hl)

theorem onTypeIStep_opens : (onTypeIStep s).Opens s := by
  unfold onTypeIStep
  split
  · exact onRestoreStep_opens hl
  · exact onSeekStep_opens hl
  · exact onStepStep_opens hl
  · exact onStepStep_opens hl
  · exact onStepStep_opens hl
  · exact .fatal (sameBytes_refl s) _

theorem onCheckVerify_opens : (onCheckVerify s).Opens s := by
  unfold onCheckVerify
  split_ifs
  · exact .later (sameBytes_refl s) (State.settleDelay_pos hl)
  · exact .now (sameBytes_refl s) trivial

theorem onReadingTrack_opens : (onReadingTrack s).Opens s := by
  have hbytes : ∀ f : Fdc, sameBytes s ((s.afterRead.deliver s.logicalByte.1).withFdc f) := fun f => by
    rw [State.deliver_eq]
    exact sameBytes_of_drives rfl
  unfold onReadingTrack
  dsimp only
  split_ifs
  · exact .later (hbytes _) (State.byteDelay_pos hl)
  · exact .now (hbytes _) trivial

/-- Write Track asks for its first byte and waits (R286). -/
theorem onWriteTrackDrq_opens (hcount : s.fdc.count = 0) : (onWriteTrackDrq s).Opens s := by
  unfold onWriteTrackDrq
  rw [if_pos hcount]
  exact .later (sameBytes_of_drives rfl) (State.writeTrackWindow_pos hl)

theorem runHandler_opens (hopen : s.Opening s.fdc.op) : (runHandler s).Opens s := by
  unfold runHandler
  revert hopen
  cases s.fdc.op with
  | typeIStep => exact fun _ => onTypeIStep_opens hl
  | checkVerify => exact fun _ => onlyFor_opens fun _ => onCheckVerify_opens hl
  | searchStart =>
    exact fun _ => onlyFor_opens fun _ =>
      .later (sameBytes_of_drives rfl) (State.byteDelay_pos hl)
  | readingTrack => exact fun _ => onlyFor_opens fun _ => onReadingTrack_opens hl
  | nmi => exact fun _ => onlyFor_opens fun _ => .complete (sameBytes_refl s)
  | delay => exact fun hcount => onDelay_opens hcount
  | checkWriteProtect => exact fun hcount => onlyFor_opens fun _ => onCheckWriteProtect_opens hcount
  | writeTrackDrq => exact fun hcount => onlyFor_opens fun _ => onWriteTrackDrq_opens hl hcount
  | seekingIndexHole => exact fun hcmd => onlyFor_opens fun _ => onSeekingIndexHole_opens hcmd
  | _ => exact fun hnot => absurd hnot id

/-- One zero-delay transition of the chain (R147). -/
theorem gotoNow_opens {S : OpStatus} (hopen : s.Opening S) :
    (gotoNow (s.withFdc { s.fdc with op := S })).Opens s ∧
      legalConfig (gotoNow (s.withFdc { s.fdc with op := S })).state.cfg = true := by
  cases hbusy : s.fdc.busy with
  | true =>
    rw [gotoNow_busy hbusy, (runHandler_frame (s.entering S)).cfg]
    have hentering : (s.entering S).Opening S := by
      cases S <;> exact hopen
    obtain ⟨hbytes, hnext⟩ := runHandler_opens (s := s.entering S) hl hentering
    exact ⟨⟨(sameBytes_of_drives rfl).trans hbytes, hnext⟩, hl⟩
  | false =>
    have hstale := fdcStepEnd_idle (s := (s.withFdc { s.fdc with op := S }).takeHandle) hbusy
    unfold gotoNow
    rw [hstale]
    exact ⟨.fatal (sameBytes_of_drives rfl) _, hl⟩

end Handlers

/-- Carrying out the end of a handler of the chain changes no byte more. -/
theorem finish_sameBytes (fuel : Nat) : ∀ {s : State} {e : HandlerEnd}, legalConfig e.state.cfg = true → e.Opens s →
    sameBytes s (finish fuel e) := by
  induction fuel with
  | zero =>
    intro s e _ ⟨hbytes, _⟩
    cases e with
    | goto S d u =>
      unfold finish
      split_ifs
      · exact hbytes
      · exact hbytes.trans (sameBytes_of_drives (State.gotoAfter_drives _ d))
    | complete u => exact hbytes
    | fatal r u => exact hbytes
  | succ fuel ih =>
    intro s e hl ⟨hbytes, hnext⟩
    cases e with
    | goto S d u =>
      unfold finish
      split_ifs with hd
      · subst hd
        obtain ⟨hopens, hl'⟩ := gotoNow_opens (s := u) hl (hnext S u rfl)
        exact hbytes.trans (ih hl' hopens)
      · exact hbytes.trans (sameBytes_of_drives (State.gotoAfter_drives _ d))
    | complete u => exact hbytes
    | fatal r u => exact hbytes

/-! ### The ports (R171, R300) -/

theorem State.armIndex_drives (s : State) : s.armIndex.drives = s.drives := by
  unfold State.armIndex State.registerPulse
  dsimp only
  split_ifs <;> rfl

theorem sameBytes_terminate (s : State) (prevCmd : CmdKind) : sameBytes s (s.terminate prevCmd) := by
  have hexpire : sameBytes s (s.expireOpt s.fdc.cmdPulse) := sameBytes_of_drives (State.expireOpt_drives s _)
  unfold State.terminate
  dsimp only
  split_ifs
  · exact hexpire.trans (sameBytes_wtAbort _)
  · exact hexpire

theorem sameBytes_forceInterrupt (s : State) (prevCmd : CmdKind) : sameBytes s (s.forceInterrupt prevCmd) := by
  have hstop : sameBytes s (if s.fdc.busy then s.terminate prevCmd else s.withFdc { s.fdc with statusMode := .typeI }) := by
    split_ifs
    · exact sameBytes_terminate s prevCmd
    · exact sameBytes_of_drives rfl
  have hlatch : ∀ (b : Bool) (u : State), (if b then u.latchIntrq else u).drives = u.drives := by
    intro b u
    split_ifs <;> rfl
  have harm : ∀ (b : Bool) (u : State), (if b then u.armIndex else u).drives = u.drives := by
    intro b u
    split_ifs
    · exact u.armIndex_drives
    · rfl
  exact hstop.trans (sameBytes_of_drives ((harm _ _).trans (hlatch _ _)))

theorem sameBytes_startCommand {s : State} (hl : legalConfig s.cfg = true) (k prevCmd : CmdKind) :
    sameBytes s (s.startCommand k prevCmd) := by
  have htypeII : sameBytes s (onPrepareTypeII (s.withFdc { s.fdc with op := .prepare })).run := by
    refine finish_sameBytes chainBound ?_ (onPrepareTypeII_opens (s := s.withFdc { s.fdc with op := .prepare }) hl)
    rw [(onPrepareTypeII_moves _).frame.cfg]
    exact hl
  unfold State.startCommand
  split
  · exact finish_sameBytes chainBound hl (onPrepareTypeI_opens (s := s.withFdc { s.fdc with op := .prepare }))
  · exact htypeII
  · exact htypeII
  · exact sameBytes_forceInterrupt s prevCmd

theorem sameBytes_writeCommand {s : State} (hl : legalConfig s.cfg = true) (v : Byte) : sameBytes s (s.writeCommand v) := by
  have haccept : sameBytes s (s.acceptCommand v) := by
    rw [State.acceptCommand_eq]
    exact sameBytes_of_drives rfl
  unfold State.writeCommand
  split_ifs
  · exact sameBytes_refl s
  · exact haccept.trans (sameBytes_startCommand (s.acceptCommand_cfg v ▸ hl) _ _)

/-- Settles O14: a port but the command port touches no drive, nor does a select; a command write runs a chain that writes
nothing, or Force Interrupt, which writes an index at most. -/
theorem portAccessKeepsBytes : Obligations.PortAccessKeepsBytes := by
  unfold Obligations.PortAccessKeepsBytes
  intro i s t hl hi hexec
  obtain ⟨-, heffect⟩ := exec_inv hexec
  cases heffect with
  | command _ v _ => exact sameBytes_writeCommand (s := { s with inUnit := true }) hl v
  | port => exact sameBytes_of_drives rfl
  | select v => exact sameBytes_of_drives (State.select_drives { s with inUnit := true } _ _)
  | advance | registerPulse | expire | dispatch | goto => cases hi

end Sys2Proof.Machine
end

section
/-! PROOFS. Reading a logical byte: which IDAM entry it covers, and what the read leaves (R89). -/

namespace Sys2Proof.Machine

/-! ### The least entry -/

theorem leastEntry_eq_none {l : List IdamEntry} : leastEntry l = none ↔ l = [] := by
  cases l with
  | nil => exact ⟨fun _ => rfl, fun _ => rfl⟩
  | cons a rest =>
    unfold leastEntry
    split
    · split_ifs <;> simp
    · simp

/-- The least entry is an entry, and no entry lies before it. -/
theorem leastEntry_spec {l : List IdamEntry} : ∀ {e : IdamEntry}, leastEntry l = some e →
    e ∈ l ∧ ∀ e' ∈ l, e.offset ≤ e'.offset := by
  induction l with
  | nil => exact fun h => by cases h
  | cons a rest ih =>
    intro e h
    unfold leastEntry at h
    split at h
    case h_1 x hx =>
      obtain ⟨hmem, hleast⟩ := ih hx
      split_ifs at h with hlt <;> cases h
      · exact ⟨List.mem_cons_of_mem a hmem, List.forall_mem_cons.2 ⟨hlt.le, hleast⟩⟩
      · exact ⟨List.mem_cons_self, List.forall_mem_cons.2 ⟨le_rfl, fun e' he' => (not_lt.1 hlt).trans (hleast e' he')⟩⟩
    case h_2 hnone =>
      cases h
      simp [leastEntry_eq_none.1 hnone]

/-! ### The hit -/

/-- The logical byte at the cursor covers the entry's byte, at the controller's density and still 0xFE (R89). -/
def State.Covered (s : State) (e : IdamEntry) : Prop :=
  ∃ T i, s.curTrack = some T ∧ e ∈ T.index ∧ i < s.stride ∧ e.offset = (s.fdc.cursor + i) % T.len ∧ e.dd = s.fdc.dd ∧
    T.data.read e.offset = 0xFE

/-- The hit is the least of the covered entries. -/
theorem State.idamHit_eq (s : State) : ∃ l, s.idamHit = leastEntry l ∧ ∀ e, e ∈ l ↔ s.Covered e := by
  unfold State.idamHit State.Covered
  cases hT : s.curTrack with
  | none => exact ⟨[], rfl, by simp⟩
  | some T =>
    refine ⟨_, rfl, fun e => ?_⟩
    simp only [List.mem_filter, Bool.and_eq_true, List.contains_iff_mem, List.mem_map, List.mem_range, beq_iff_eq,
      Option.some.injEq]
    constructor
    · rintro ⟨he, ⟨⟨i, hi, hoffset⟩, hdd⟩, hbyte⟩
      exact ⟨T, i, rfl, he, hi, hoffset.symm, hdd, hbyte⟩
    · rintro ⟨_, i, rfl, he, hi, hoffset, hdd, hbyte⟩
      exact ⟨he, ⟨⟨i, hi, hoffset.symm⟩, hdd⟩, hbyte⟩

theorem State.idamHit_eq_some {s : State} {e : IdamEntry} (h : s.idamHit = some e) :
    s.Covered e ∧ ∀ e', s.Covered e' → e.offset ≤ e'.offset := by
  obtain ⟨l, hl, hmem⟩ := s.idamHit_eq
  obtain ⟨he, hleast⟩ := leastEntry_spec (hl.symm.trans h)
  exact ⟨(hmem e).1 he, fun e' he' => hleast e' ((hmem e').2 he')⟩

theorem State.idamHit_eq_none {s : State} : s.idamHit = none ↔ ∀ e, ¬ s.Covered e := by
  obtain ⟨l, hl, hmem⟩ := s.idamHit_eq
  rw [hl, leastEntry_eq_none, List.eq_nil_iff_forall_not_mem]
  exact forall_congr' fun e => not_congr (hmem e)

/-! ### The read -/

theorem State.read_of_hit {s : State} {e : IdamEntry} (h : s.idamHit = some e) :
    s.logicalByte = (0xFE, true) ∧ s.afterRead.fdc.cursor = (e.offset + s.stride) % s.trackLen := by
  simp [State.logicalByte, State.afterRead, h]

theorem State.read_of_no_hit {s : State} (h : s.idamHit = none) :
    s.logicalByte = (s.memRead s.fdc.cursor, false) ∧
      s.afterRead.fdc.cursor = (s.fdc.cursor + s.stride) % s.trackLen := by
  simp [State.logicalByte, State.afterRead, h]

/-- Settles O22: the hit is a covered entry of the least offset, and there is none exactly when no entry is covered. -/
theorem logicalRead : Obligations.LogicalRead := by
  unfold Obligations.LogicalRead
  intro s
  refine ⟨rfl, fun e (he : s.Covered e) hleast => ?_, fun hnone => State.read_of_no_hit (State.idamHit_eq_none.2 hnone),
    fun T hT => by simp only [State.memRead, hT], fun hnone => by simp only [State.memRead, hnone]⟩
  cases hhit : s.idamHit with
  | none => exact absurd he (State.idamHit_eq_none.1 hhit e)
  | some e' =>
    obtain ⟨he', hleast'⟩ := State.idamHit_eq_some hhit
    have hoffset : e.offset = e'.offset := le_antisymm (hleast e' he') (hleast' e he)
    rw [hoffset]
    exact State.read_of_hit hhit

end Sys2Proof.Machine
end

section
/-! PROOFS. Each command byte has one kind and keeps its operand bits. -/

namespace Sys2Proof

/-! ### Command bytes (R113 to R117) -/

@[simp] theorem decodeCommand_byteRestore : ∀ h v r, decodeCommand (byteRestore h v r) = .restore h v r := by decide
@[simp] theorem decodeCommand_byteSeek : ∀ h v r, decodeCommand (byteSeek h v r) = .seek h v r := by decide
@[simp] theorem decodeCommand_byteStep : ∀ u h v r, decodeCommand (byteStep u h v r) = .step u h v r := by decide
@[simp] theorem decodeCommand_byteStepIn : ∀ u h v r, decodeCommand (byteStepIn u h v r) = .stepIn u h v r := by decide
@[simp] theorem decodeCommand_byteStepOut : ∀ u h v r, decodeCommand (byteStepOut u h v r) = .stepOut u h v r := by decide
@[simp] theorem decodeCommand_byteReadSector :
    ∀ m s e c x, decodeCommand (byteReadSector m s e c x) = .readSector m s e c x := by decide
@[simp] theorem decodeCommand_byteWriteSector :
    ∀ m s e c a0, decodeCommand (byteWriteSector m s e c a0) = .writeSector m s e c a0 := by decide
@[simp] theorem decodeCommand_byteReadAddress :
    ∀ x3 e x1 x0, decodeCommand (byteReadAddress x3 e x1 x0) = .readAddress x3 e x1 x0 := by decide
@[simp] theorem decodeCommand_byteForceInterrupt :
    ∀ i3 i2 i1 i0, decodeCommand (byteForceInterrupt i3 i2 i1 i0) = .forceInterrupt i3 i2 i1 i0 := by decide
@[simp] theorem decodeCommand_byteReadTrack :
    ∀ x3 e x1 x0, decodeCommand (byteReadTrack x3 e x1 x0) = .readTrack x3 e x1 x0 := by decide
@[simp] theorem decodeCommand_byteWriteTrack :
    ∀ x3 e x1 x0, decodeCommand (byteWriteTrack x3 e x1 x0) = .writeTrack x3 e x1 x0 := by decide

/-- The command byte of a command; none for a port access or a primitive. -/
def Instr.commandByte : Instr → Option Byte
  | .restore h v r => some (byteRestore h v r)
  | .seek h v r => some (byteSeek h v r)
  | .step u h v r => some (byteStep u h v r)
  | .stepIn u h v r => some (byteStepIn u h v r)
  | .stepOut u h v r => some (byteStepOut u h v r)
  | .readSector m s e c x => some (byteReadSector m s e c x)
  | .writeSector m s e c a0 => some (byteWriteSector m s e c a0)
  | .readAddress x3 e x1 x0 => some (byteReadAddress x3 e x1 x0)
  | .forceInterrupt i3 i2 i1 i0 => some (byteForceInterrupt i3 i2 i1 i0)
  | .readTrack x3 e x1 x0 => some (byteReadTrack x3 e x1 x0)
  | .writeTrack x3 e x1 x0 => some (byteWriteTrack x3 e x1 x0)
  | _ => none

theorem Instr.commandByte_spec {i : Instr} {b : Byte} (h : i.commandByte = some b) (base : Byte) :
    i.wf = true ∧ encode base i = [b, 0] ∧ decodeCommand b = i := by
  cases i <;> cases h <;> simp [wf, encode]

/-- Every byte is the command byte of what it decodes to: the decoded fields and the ignored bits make up the byte (R37). -/
theorem commandByte_decodeCommand : ∀ b : Byte, (decodeCommand b).commandByte = some b := by decide

/-- Settles O1: the rows are filtered for each of the 256 bytes, and the type is read off each kind. -/
theorem commandKinds : Obligations.CommandKinds := by
  unfold Obligations.CommandKinds
  constructor
  · decide
  · intro k
    cases k <;> decide

end Sys2Proof
end

section
/-! PROOFS. The operands of an encoded instruction: numbers, codes and flags, each read back as it was written and from
nothing else. -/

namespace Sys2Proof

/-! ### Numbers (assumption 1) -/

@[simp] theorem length_leBytes (k n : Nat) : (leBytes k n).length = k := by
  induction k generalizing n with
  | zero => rfl
  | succ k ih => simp [leBytes, ih]

theorem leValue_leBytes (k n : Nat) : leValue (leBytes k n) = n % 256 ^ k := by
  induction k generalizing n with
  | zero => simp [leBytes, leValue, Nat.mod_one]
  | succ k ih => simp [leBytes, leValue, ih, Nat.pow_succ', Nat.mod_mul]

theorem leBytes_leValue (bs : List Byte) : leBytes bs.length (leValue bs) = bs := by
  induction bs with
  | nil => rfl
  | cons b bs ih =>
    have hb := b.isLt
    have hhead : BitVec.ofNat 8 (b.toNat + 256 * leValue bs) = b := BitVec.eq_of_toNat_eq (by simp; omega)
    have htail : (b.toNat + 256 * leValue bs) / 256 = leValue bs := by omega
    simp [leBytes, leValue, hhead, htail, ih]

theorem leValue_lt (bs : List Byte) : leValue bs < 256 ^ bs.length := by
  have h := leValue_leBytes bs.length (leValue bs)
  rw [leBytes_leValue] at h
  rw [h]
  exact Nat.mod_lt _ (by positivity)

/-- `takeLe k` undoes `leBytes k` and accepts nothing else. -/
theorem takeLe_eq_some_iff {k n : Nat} {bs rest : List Byte} :
    takeLe k bs = some (n, rest) ↔ n < 256 ^ k ∧ bs = leBytes k n ++ rest := by
  unfold takeLe
  constructor
  · intro h
    split_ifs at h with hk
    cases h
    have hlen : (bs.take k).length = k := by simp [hk]
    have hvalue := leValue_lt (bs.take k)
    have hbytes := leBytes_leValue (bs.take k)
    rw [hlen] at hvalue hbytes
    exact ⟨hvalue, by rw [hbytes, List.take_append_drop]⟩
  · rintro ⟨hn, rfl⟩
    simp [leValue_leBytes, Nat.mod_eq_of_lt hn]

/-! ### Codes (assumption 1) -/

/-- The code of `a` in a list of all values is its place, and no other byte. -/
theorem getElem?_eq_some_iff_code {α : Type} [DecidableEq α] {l : List α} (hnodup : l.Nodup) (hlen : l.length ≤ 256)
    {a : α} (ha : a ∈ l) {b : Byte} : l[b.toNat]? = some a ↔ b = BitVec.ofNat 8 (l.idxOf a) := by
  have hidx := List.idxOf_lt_length_of_mem ha
  constructor
  · intro h
    obtain ⟨hb, rfl⟩ := List.getElem?_eq_some_iff.1 h
    rw [hnodup.idxOf_getElem]
    simp
  · rintro rfl
    rw [BitVec.toNat_ofNat, Nat.mod_eq_of_lt (by omega)]
    exact List.getElem?_idxOf ha

theorem callbackCodes_getElem?_iff {b : Byte} {cb : Callback} :
    callbackCodes[b.toNat]? = some cb ↔ b = BitVec.ofNat 8 (callbackCodes.idxOf cb) :=
  getElem?_eq_some_iff_code (by decide) (by decide) (by cases cb <;> decide)

theorem opStatusCodes_getElem?_iff {b : Byte} {S : OpStatus} :
    opStatusCodes[b.toNat]? = some S ↔ b = BitVec.ofNat 8 (opStatusCodes.idxOf S) :=
  getElem?_eq_some_iff_code (by decide) (by decide) (by cases S <;> decide)

/-- The periodic flag is the byte 0 or 1. -/
theorem byteOfBool_iff {b : Byte} {p : Bool} : b = byteOfBool p ↔ b.toNat ≤ 1 ∧ (b == 1) = p := by
  revert b p; decide

end Sys2Proof
end

section
/-! PROOFS. The decoder against the encoder: a byte string decodes to an instruction exactly when it is that instruction's
encoding and zero bytes. -/

namespace Sys2Proof

/-! ### The end of an instruction -/

theorem finishDecode_eq_ok_iff {i j : Instr} {rest : List Byte} :
    finishDecode i rest = .ok j ↔ i = j ∧ ∃ k, rest = List.replicate k 0 := by
  have hzeros : (rest.all (· == 0)) = true ↔ ∃ k, rest = List.replicate k 0 := by
    simp [List.eq_replicate_iff]
  rw [← hzeros]
  unfold finishDecode
  split_ifs with hz
  · simp only [hz, Except.ok.injEq, and_true]
  · simp only [hz, reduceCtorEq, and_false]

theorem finishChecked_eq_ok_iff {i j : Instr} {rest : List Byte} :
    finishChecked i rest = .ok j ↔ i.wf = true ∧ i = j ∧ ∃ k, rest = List.replicate k 0 := by
  unfold finishChecked
  split_ifs with hwf
  · rw [finishDecode_eq_ok_iff, and_iff_right hwf]
  · simp only [hwf, reduceCtorEq, false_and]

theorem onlyAtZero_eq_ok_iff {b : Byte} {r : Except DecodeError Instr} {i : Instr} :
    onlyAtZero b r = .ok i ↔ b = 0 ∧ r = .ok i := by
  unfold onlyAtZero
  split_ifs with hb
  · rw [and_iff_right hb]
  · simp only [hb, false_and]

/-! ### From a byte string to its instruction -/

/-- `bytes` is the encoding of the well-formed `i`, and zero bytes after it. -/
def Encodes (base : Byte) (bytes : List Byte) (i : Instr) : Prop :=
  i.wf = true ∧ ∃ k, bytes = encode base i ++ List.replicate k 0

theorem byte_of_toNat {b : Byte} {n : Nat} (h : b.toNat = n) : b = BitVec.ofNat 8 n := by
  rw [← h, BitVec.ofNat_toNat, BitVec.setWidth_eq]

theorem addr_of_offset {base addr : Byte} {n : Nat} (h : (addr - base).toNat = n) : addr = base + BitVec.ofNat 8 n := by
  rw [← byte_of_toNat h, add_sub_cancel]

section

variable {base b0 b1 : Byte} {ops : List Byte} {i : Instr}

theorem encodes_of_decodeCommand (h : finishDecode (decodeCommand b0) ops = .ok i) : Encodes base (b0 :: 0 :: ops) i := by
  obtain ⟨hi, k, rfl⟩ := finishDecode_eq_ok_iff.1 h
  obtain ⟨hwf, hbytes, -⟩ := Instr.commandByte_spec (hi ▸ commandByte_decodeCommand b0) base
  exact ⟨hwf, k, by rw [hbytes]; rfl⟩

theorem encodes_of_decodeIn (h : decodeIn base b0 ops = .ok i) : Encodes base (b0 :: 1 :: ops) i := by
  unfold decodeIn at h
  split at h
  case h_6 => cases h
  all_goals
    obtain ⟨rfl, k, rfl⟩ := finishDecode_eq_ok_iff.1 h
    exact ⟨rfl, k, by simp [encode, addr_of_offset ‹_›]⟩

theorem encodes_of_decodeOut (h : decodeOut base b0 ops = .ok i) : Encodes base (b0 :: 2 :: ops) i := by
  unfold decodeOut at h
  split at h
  · cases h
  · split at h
    case h_6 => cases h
    all_goals
      obtain ⟨rfl, k, rfl⟩ := finishDecode_eq_ok_iff.1 h
      exact ⟨rfl, k, by simp [encode, addr_of_offset ‹_›]⟩

theorem encodes_of_decodeAdvance (h : decodeAdvance ops = .ok i) : Encodes base (0 :: 3 :: ops) i := by
  unfold decodeAdvance at h
  split at h
  case h_2 => cases h
  case h_1 n rest hn =>
    obtain ⟨-, rfl⟩ := takeLe_eq_some_iff.1 hn
    obtain ⟨hwf, rfl, k, rfl⟩ := finishChecked_eq_ok_iff.1 h
    exact ⟨hwf, k, rfl⟩

theorem encodes_of_decodeRegisterPulse (h : decodeRegisterPulse ops = .ok i) : Encodes base (0 :: 4 :: ops) i := by
  unfold decodeRegisterPulse at h
  split at h
  case h_2 => cases h
  case h_1 code flag ops' =>
    split at h
    case h_2 | h_3 => cases h
    case h_1 cb delay ops'' hcode hdelay =>
      split at h
      case h_2 => cases h
      case h_1 period rest hperiod =>
        split_ifs at h with hflag
        obtain ⟨-, rfl⟩ := takeLe_eq_some_iff.1 hdelay
        obtain ⟨-, rfl⟩ := takeLe_eq_some_iff.1 hperiod
        obtain ⟨hwf, rfl, k, rfl⟩ := finishChecked_eq_ok_iff.1 h
        have hcode' := callbackCodes_getElem?_iff.1 hcode
        have hflag' := byteOfBool_iff.2 ⟨hflag, rfl⟩
        exact ⟨hwf, k, by rw [encode, ← hcode', ← hflag', ← List.append_assoc]; rfl⟩

theorem encodes_of_decodeExpire (h : decodeExpire ops = .ok i) : Encodes base (0 :: 5 :: ops) i := by
  unfold decodeExpire at h
  split at h
  case h_2 => cases h
  case h_1 handle rest hhandle =>
    obtain ⟨-, rfl⟩ := takeLe_eq_some_iff.1 hhandle
    obtain ⟨hwf, rfl, k, rfl⟩ := finishChecked_eq_ok_iff.1 h
    exact ⟨hwf, k, rfl⟩

theorem encodes_of_decodeGoto (h : decodeGoto ops = .ok i) : Encodes base (0 :: 7 :: ops) i := by
  unfold decodeGoto at h
  split at h
  case h_1 => cases h
  case h_2 code ops' =>
    split at h
    case h_2 | h_3 => cases h
    case h_1 target delay rest hcode hdelay =>
      obtain ⟨-, rfl⟩ := takeLe_eq_some_iff.1 hdelay
      obtain ⟨hwf, rfl, k, rfl⟩ := finishChecked_eq_ok_iff.1 h
      exact ⟨hwf, k, by simp [encode, ← opStatusCodes_getElem?_iff.1 hcode]⟩

theorem encodes_of_decode {bytes : List Byte} (h : decode base bytes = .ok i) : Encodes base bytes i := by
  unfold decode at h
  split at h
  case h_2 => cases h
  case h_1 b0 b1 ops =>
    split at h
    case h_9 => cases h
    all_goals obtain rfl := byte_of_toNat ‹b1.toNat = _›
    case h_1 => exact encodes_of_decodeCommand h
    case h_2 => exact encodes_of_decodeIn h
    case h_3 => exact encodes_of_decodeOut h
    all_goals obtain ⟨rfl, h'⟩ := onlyAtZero_eq_ok_iff.1 h
    case h_4 => exact encodes_of_decodeAdvance h'
    case h_5 => exact encodes_of_decodeRegisterPulse h'
    case h_6 => exact encodes_of_decodeExpire h'
    case h_7 =>
      obtain ⟨rfl, k, rfl⟩ := finishDecode_eq_ok_iff.1 h'
      exact ⟨rfl, k, rfl⟩
    case h_8 => exact encodes_of_decodeGoto h'

/-! ### From an instruction to its byte string -/

theorem isU64_iff {n : Nat} : isU64 n = true ↔ n < 256 ^ 8 := by
  simp [isU64]

theorem takeLe_leBytes {n : Nat} (h : isU64 n = true) (rest : List Byte) : takeLe 8 (leBytes 8 n ++ rest) = some (n, rest) :=
  takeLe_eq_some_iff.2 ⟨isU64_iff.1 h, rfl⟩

theorem decode_command {b : Byte} (hb : i.commandByte = some b) (rest : List Byte) :
    decode base (encode base i ++ rest) = finishDecode i rest := by
  obtain ⟨-, hbytes, hdec⟩ := Instr.commandByte_spec hb base
  rw [hbytes]
  exact congrArg (finishDecode · rest) hdec

theorem decode_advance : decode base (0 :: 3 :: ops) = decodeAdvance ops := rfl
theorem decode_registerPulse : decode base (0 :: 4 :: ops) = decodeRegisterPulse ops := rfl
theorem decode_expire : decode base (0 :: 5 :: ops) = decodeExpire ops := rfl
theorem decode_goto : decode base (0 :: 7 :: ops) = decodeGoto ops := rfl

theorem decodeAdvance_encoding {n : Nat} (hwf : (Instr.advance n).wf = true) (rest : List Byte) :
    decodeAdvance (leBytes 8 n ++ rest) = finishDecode (.advance n) rest := by
  obtain ⟨-, hn⟩ : _ ∧ isU64 n = true := Bool.and_eq_true_iff.1 hwf
  simp only [decodeAdvance, takeLe_leBytes hn, finishChecked, if_pos hwf]

theorem decodeRegisterPulse_encoding {cb : Callback} {delay period : Nat} {periodic : Bool}
    (hwf : (Instr.registerPulse cb delay periodic period).wf = true) (rest : List Byte) :
    decodeRegisterPulse (BitVec.ofNat 8 (callbackCodes.idxOf cb) :: byteOfBool periodic ::
      (leBytes 8 delay ++ leBytes 8 period ++ rest)) = finishDecode (.registerPulse cb delay periodic period) rest := by
  obtain ⟨hdelay, hperiod⟩ : isU64 delay = true ∧ isU64 period = true := Bool.and_eq_true_iff.1 hwf
  obtain ⟨hflag, hperiodic⟩ := byteOfBool_iff.1 (rfl : byteOfBool periodic = _)
  simp only [decodeRegisterPulse, callbackCodes_getElem?_iff.2 rfl, List.append_assoc, takeLe_leBytes hdelay,
    takeLe_leBytes hperiod, if_pos hflag, hperiodic, finishChecked, if_pos hwf]

theorem decodeExpire_encoding {handle : Nat} (hwf : (Instr.expire handle).wf = true) (rest : List Byte) :
    decodeExpire (leBytes 8 handle ++ rest) = finishDecode (.expire handle) rest := by
  simp only [decodeExpire, takeLe_leBytes hwf, finishChecked, if_pos hwf]

theorem decodeGoto_encoding {target : OpStatus} {delay : Nat} (hwf : (Instr.goto target delay).wf = true)
    (rest : List Byte) : decodeGoto (BitVec.ofNat 8 (opStatusCodes.idxOf target) :: (leBytes 8 delay ++ rest)) =
      finishDecode (.goto target delay) rest := by
  simp only [decodeGoto, opStatusCodes_getElem?_iff.2 rfl, takeLe_leBytes hwf, finishChecked, if_pos hwf]

theorem decode_encode_append (hwf : i.wf = true) (rest : List Byte) :
    decode base (encode base i ++ rest) = finishDecode i rest := by
  cases i with
  | restore | seek | step | stepIn | stepOut | readSector | writeSector | readAddress | forceInterrupt | readTrack
    | writeTrack => exact decode_command rfl rest
  | rdStatus | rdTrack | rdSector | rdData | rdSelect => simp [encode, decode, decodeIn]
  | wrCommand | wrTrack | wrSector | wrData | wrSelect => simp [encode, decode, decodeOut]
  | dispatch => rfl
  | advance n => simp only [encode, List.cons_append, decode_advance, decodeAdvance_encoding hwf]
  | registerPulse cb delay periodic period =>
    simp only [encode, List.cons_append, decode_registerPulse, decodeRegisterPulse_encoding hwf]
  | expire handle => simp only [encode, List.cons_append, decode_expire, decodeExpire_encoding hwf]
  | goto target delay => simp only [encode, List.cons_append, decode_goto, decodeGoto_encoding hwf]

theorem decode_eq_ok_iff {bytes : List Byte} : decode base bytes = .ok i ↔ Encodes base bytes i := by
  constructor
  · exact encodes_of_decode
  · rintro ⟨hwf, k, rfl⟩
    rw [decode_encode_append hwf]
    exact finishDecode_eq_ok_iff.2 ⟨rfl, k, rfl⟩

end

/-- Settles O3: each reader reads back what the encoder wrote, up to the zero bytes. -/
theorem decodeOfEncode : Obligations.DecodeOfEncode := by
  unfold Obligations.DecodeOfEncode
  exact fun base i k hwf => decode_eq_ok_iff.2 ⟨hwf, k, rfl⟩

/-- Settles O4: each reader accepts nothing but what the encoder writes. -/
theorem encodeOfDecode : Obligations.EncodeOfDecode := by
  unfold Obligations.EncodeOfDecode
  exact fun base bytes i h => decode_eq_ok_iff.1 h

/-- Settles O2, by running the decoder on the nine words. -/
theorem knownWords : Obligations.KnownWords := by
  unfold Obligations.KnownWords
  decide

end Sys2Proof
end

section
/-! PROOFS. The code bytes of Write Track: what is put, the CRC, and the ID marks. -/

namespace Sys2Proof.Machine

/-! ### What a put byte leaves unchanged (R288) -/

@[simp] theorem State.wtPut_crc (s : State) (v : Byte) : (s.wtPut v).fdc.crc = s.fdc.crc := by
  rw [State.wtPut_shape]

@[simp] theorem State.wtPut_newIndex (s : State) (v : Byte) : (s.wtPut v).fdc.newIndex = s.fdc.newIndex := by
  rw [State.wtPut_shape]

@[simp] theorem State.wtPut_cfg (s : State) (v : Byte) : (s.wtPut v).cfg = s.cfg := by
  rw [State.wtPut_shape]

theorem State.wtPut_curTrack_isSome (s : State) (v : Byte) : (s.wtPut v).curTrack.isSome = s.curTrack.isSome := by
  cases hT : s.curTrack with
  | none => rw [State.wtPut_curTrack_of_none hT]
  | some T => rw [State.wtPut_curTrack_of_some hT]; rfl

/-! ### A code: a CRC preset, a byte, and maybe an ID mark (R290) -/

/-- The state with the running CRC and 'CRC-reset-allowed' set (R60, R62). -/
def State.withCrc (s : State) (crc : Half) (allowed : Bool) : State :=
  s.withFdc { s.fdc with crc := crc, crcResetAllowed := allowed }

/-- Putting a byte neither reads nor writes the CRC. -/
theorem State.wtPut_withCrc (s : State) (crc : Half) (allowed : Bool) (v : Byte) :
    (s.withCrc crc allowed).wtPut v = (s.wtPut v).withCrc crc allowed := by
  cases hT : s.curTrack with
  | none =>
    rw [State.wtPut_of_none hT, State.wtPut_of_none (s := s.withCrc crc allowed) hT]
    rfl
  | some T =>
    obtain ⟨n, m, hn, hm, -⟩ := State.curTrack_eq_some hT
    rw [State.wtPut_of_some hT, State.wtPut_of_some (s := s.withCrc crc allowed) hT,
      State.setCurTrack_withTrack _ _ hn hm hT, State.setCurTrack_withTrack (s := s.withCrc crc allowed) _ _ hn hm hT]
    rfl

/-- The state after a code put `v` and left this CRC, reset mark and new index. -/
def State.afterCode (s : State) (v : Byte) (crc : Half) (allowed : Bool) (index : List IdamEntry) : State :=
  (s.wtPut v).withFdc { (s.wtPut v).fdc with crc := crc, crcResetAllowed := allowed, newIndex := index }

theorem State.wtPutCrc_withCrc (s : State) (crc : Half) (allowed : Bool) (v : Byte) :
    (s.withCrc crc allowed).wtPutCrc v =
      s.afterCode v (crcUpdate s.cfg.crcPoly crc v) allowed s.fdc.newIndex := by
  unfold State.wtPutCrc State.afterCode
  rw [State.wtPut_withCrc, ← State.wtPut_newIndex s v]
  rfl

/-- The new index after a code that is an ID mark or not, at density `d`: the mark enters when the medium and the slots have
room for it (R290). -/
def State.indexAfter (s : State) (mark : Prop) [Decidable mark] (d : Bool) : List IdamEntry :=
  if mark ∧ s.curTrack ≠ none ∧ s.fdc.cursor < s.capacity ∧ s.fdc.newIndex.length < s.cfg.idamSlots
  then s.fdc.newIndex ++ [{ offset := s.fdc.cursor, dd := d }] else s.fdc.newIndex

theorem State.recordIdam_afterCode (s : State) (v : Byte) (crc : Half) (allowed d : Bool) :
    (s.afterCode v crc allowed s.fdc.newIndex).recordIdam s.fdc.cursor d =
      s.afterCode v crc allowed (s.indexAfter True d) := by
  have hsome : (s.afterCode v crc allowed s.fdc.newIndex).curTrack.isSome = s.curTrack.isSome := s.wtPut_curTrack_isSome v
  have hcap : (s.afterCode v crc allowed s.fdc.newIndex).capacity = s.capacity := s.wtPut_capacity v
  have hcfg : (s.afterCode v crc allowed s.fdc.newIndex).cfg = s.cfg := s.wtPut_cfg v
  have hnew : (s.afterCode v crc allowed s.fdc.newIndex).fdc.newIndex = s.fdc.newIndex := rfl
  unfold State.recordIdam State.indexAfter
  rw [hsome, hcap, hcfg, hnew]
  simp only [Option.isSome_iff_ne_none, true_and]
  split_ifs <;> rfl

/-- A code puts its byte, and as an ID mark enters the new index when there is room (R290). -/
theorem State.putCode_eq (s : State) (v : Byte) (crc : Half) (allowed d : Bool) (mark : Prop) [Decidable mark] :
    (if mark then ((s.withCrc crc allowed).wtPutCrc v).recordIdam s.fdc.cursor d else (s.withCrc crc allowed).wtPutCrc v) =
      s.afterCode v (crcUpdate s.cfg.crcPoly crc v) allowed (s.indexAfter mark d) := by
  rw [State.wtPutCrc_withCrc, State.recordIdam_afterCode]
  by_cases hmark : mark
  · simp only [hmark, if_true]
  · simp only [hmark, if_false, State.indexAfter, false_and]

/-! ### The codes (R119, R290) -/

theorem Fdc.ddCodeCrc_eq (f : Fdc) (c : Byte) : f.ddCodeCrc c = { f with
    crc := if c = 0xF5 ∧ f.crcResetAllowed = true then 0xFFFF else f.crc, crcResetAllowed := decide (c ≠ 0xF5) } := by
  unfold Fdc.ddCodeCrc
  by_cases hc : c = 0xF5
  · by_cases hallowed : f.crcResetAllowed = true
    · simp [hc, hallowed]
    · rw [if_pos hc, if_neg hallowed, if_neg fun h => hallowed h.2, decide_eq_false (not_not.2 hc),
        ← Bool.eq_false_iff.2 hallowed]
  · simp only [hc, if_false, false_and, ne_eq, not_false_eq_true, decide_true]

theorem Fdc.sdCodeCrc_eq (f : Fdc) (c : Byte) : f.sdCodeCrc c = { f with
    crc := if c = 0xF8 ∨ c = 0xF9 ∨ c = 0xFA ∨ c = 0xFB ∨ c = 0xFE then 0xFFFF else f.crc } := by
  have hmark : isSdMark c = true ↔ c = 0xF8 ∨ c = 0xF9 ∨ c = 0xFA ∨ c = 0xFB ∨ c = 0xFE := by
    simp [isSdMark, isDataMark, or_assoc]
  unfold Fdc.sdCodeCrc
  simp only [hmark]
  split_ifs <;> rfl

theorem State.wtByte_of_crcCode (s : State) : s.wtByte 0xF7 =
    (s.wtPut (hiByte s.fdc.crc)).withFdc { (s.wtPut (hiByte s.fdc.crc)).fdc with
      pendingCrcLo := some (loByte s.fdc.crc), crcResetAllowed := true } := by
  unfold State.wtByte
  simp only [if_true, State.wtPut_crc]

theorem State.wtByte_of_dd {s : State} {c : Byte} (hc : c ≠ 0xF7) (hdd : s.fdc.dd = true) :
    s.wtByte c = s.afterCode (ddCodeByte c)
      (crcUpdate s.cfg.crcPoly (if c = 0xF5 ∧ s.fdc.crcResetAllowed = true then 0xFFFF else s.fdc.crc) (ddCodeByte c))
      (decide (c ≠ 0xF5)) (s.indexAfter (ddCodeByte c = 0xFE ∧ afterSync s.fdc.recent) true) := by
  unfold State.wtByte
  rw [if_neg hc, if_pos hdd, Fdc.ddCodeCrc_eq]
  exact s.putCode_eq _ _ _ _ _

theorem State.wtByte_of_sd {s : State} {c : Byte} (hc : c ≠ 0xF7) (hdd : s.fdc.dd = false) :
    s.wtByte c = s.afterCode c
      (crcUpdate s.cfg.crcPoly (if c = 0xF8 ∨ c = 0xF9 ∨ c = 0xFA ∨ c = 0xFB ∨ c = 0xFE then 0xFFFF else s.fdc.crc) c)
      s.fdc.crcResetAllowed (s.indexAfter (c = 0xFE) false) := by
  unfold State.wtByte
  rw [if_neg hc, if_neg (by simp [hdd]), Fdc.sdCodeCrc_eq]
  exact s.putCode_eq _ _ _ _ _

/-- Settles O38: in each density the code is one `afterCode`, with the byte, the preset, the reset mark and the ID mark that
R290 names. -/
theorem writeTrackCodes : Obligations.WriteTrackCodes := by
  unfold Obligations.WriteTrackCodes
  intro c s hiOut
  constructor
  · rintro rfl
    exact s.wtByte_of_crcCode
  · intro hc v sdMark ddSync crc0 allowed idMark
    change s.wtByte c = s.afterCode v (crcUpdate s.cfg.crcPoly crc0 v) allowed (if idMark then _ else _)
    rcases Bool.eq_false_or_eq_true s.fdc.dd with hdd | hdd
    · have hv : v = ddCodeByte c := by simp [v, hdd, ddCodeByte]
      have hcrc : crc0 = if c = 0xF5 ∧ s.fdc.crcResetAllowed = true then 0xFFFF else s.fdc.crc :=
        if_congr (by simp [sdMark, ddSync, hdd]) rfl rfl
      have hallowed : allowed = decide (c ≠ 0xF5) := if_pos hdd
      rw [State.wtByte_of_dd hc hdd, hcrc, hallowed]
      congr 1
      · exact hv.symm
      · rw [hv]
      · exact if_congr (by simp [idMark, hv, hdd, afterSync, and_assoc]) (by rw [hdd]) rfl
    · have hv : v = c := by simp [v, hdd]
      have hcrc : crc0 = if c = 0xF8 ∨ c = 0xF9 ∨ c = 0xFA ∨ c = 0xFB ∨ c = 0xFE then 0xFFFF else s.fdc.crc :=
        if_congr (by simp [sdMark, ddSync, hdd]) rfl rfl
      have hallowed : allowed = s.fdc.crcResetAllowed := if_neg (by simp [hdd])
      rw [State.wtByte_of_sd hc hdd, hcrc, hallowed]
      congr 1
      · exact hv.symm
      · rw [hv]
      · exact if_congr (by simp [idMark, hv, hdd]) (by rw [hdd]) rfl

end Sys2Proof.Machine
end

section
/-! PROOFS. What a callback does to the clock and leaves alone, where a state without a handler ends, and that a zero-delay chain
ends the same under any bound its rank allows (R147, R148, R458). -/

namespace Sys2Proof.Machine

/-! ### The frame of a callback (R148, R182, R302) -/

/-- What no callback and no Dispatch touches: the parameters, the tick, the script and the Operator's list, the Host's unit and
its outputs. -/
structure HostFrame (s u : State) : Prop where
  shape : u = { s with
    clk := u.clk, fdc := u.fdc, drives := u.drives, motorOn := u.motorOn, motorPulse := u.motorPulse,
    motorIrq := u.motorIrq, lastReady := u.lastReady, fault := u.fault }
  ticks : u.clk.ticks = s.clk.ticks

theorem HostFrame.refl (s : State) : HostFrame s s := ⟨rfl, rfl⟩

theorem HostFrame.trans {s u w : State} (h₁ : HostFrame s u) (h₂ : HostFrame u w) : HostFrame s w :=
  ⟨by rw [h₂.shape, h₁.shape], h₂.ticks.trans h₁.ticks⟩

/-- What a callback does to the clock besides: it only registers one-shot entries ahead of the tick (R147). -/
structure CallbackFrame (s u : State) : Prop extends HostFrame s u where
  pulses : ∃ new, u.clk.pulses = s.clk.pulses ++ new ∧ ∀ e ∈ new, e.periodic = false ∧ s.clk.ticks < e.trigger
  nextHandle : s.clk.nextHandle ≤ u.clk.nextHandle

/-- An operation that registers no entry. -/
theorem CallbackFrame.of_pulses {s u : State} (h : HostFrame s u) (hpulses : u.clk.pulses = s.clk.pulses)
    (hhandle : s.clk.nextHandle ≤ u.clk.nextHandle) : CallbackFrame s u :=
  { h with pulses := ⟨[], by simp [hpulses]⟩, nextHandle := hhandle }

theorem CallbackFrame.refl (s : State) : CallbackFrame s s := .of_pulses (.refl s) rfl (Nat.le_refl _)

theorem CallbackFrame.trans {s u w : State} (h₁ : CallbackFrame s u) (h₂ : CallbackFrame u w) : CallbackFrame s w := by
  obtain ⟨new₁, hpulses₁, hnew₁⟩ := h₁.pulses
  obtain ⟨new₂, hpulses₂, hnew₂⟩ := h₂.pulses
  refine { h₁.toHostFrame.trans h₂.toHostFrame with
    pulses := ⟨new₁ ++ new₂, by rw [hpulses₂, hpulses₁, List.append_assoc], ?_⟩
    nextHandle := h₁.nextHandle.trans h₂.nextHandle }
  rw [h₁.ticks] at hnew₂
  exact List.forall_mem_append.2 ⟨hnew₁, hnew₂⟩

theorem HandlerFrame.callbackFrame {s u : State} (h : HandlerFrame s u) : CallbackFrame s u :=
  .of_pulses ⟨by rw [h.shape], by rw [h.clk]⟩ (by rw [h.clk]) (by rw [h.clk])

theorem CallbackFrame.withFdc {s u : State} (h : CallbackFrame s u) (f : Fdc) : CallbackFrame s (u.withFdc f) :=
  h.trans (.of_pulses ⟨rfl, rfl⟩ rfl (Nat.le_refl _))

theorem CallbackFrame.raiseFatal {s u : State} (h : CallbackFrame s u) (r : FaultReason) : CallbackFrame s (u.raiseFatal r) :=
  h.trans (.of_pulses ⟨rfl, rfl⟩ rfl (Nat.le_refl _))

theorem CallbackFrame.takeHandle {s u : State} (h : CallbackFrame s u) : CallbackFrame s u.takeHandle :=
  h.trans (.of_pulses ⟨rfl, rfl⟩ rfl (Nat.le_succ _))

theorem CallbackFrame.gotoAfter {s u : State} (h : CallbackFrame s u) {d : Nat} (hd : 0 < d) :
    CallbackFrame s (u.gotoAfter d) := by
  refine h.trans ⟨⟨rfl, rfl⟩, ⟨_, rfl, ?_⟩, Nat.le_succ _⟩
  rw [List.forall_mem_singleton]
  exact ⟨rfl, Nat.lt_add_of_pos_right hd⟩

theorem fdcStepEnd_frame (s : State) : CallbackFrame s (fdcStepEnd s).state := by
  have hspent : CallbackFrame s (s.withFdc { s.fdc with cmdPulse := none }) := CallbackFrame.withFdc (.refl s) _
  rcases Bool.eq_false_or_eq_true s.fdc.busy with hbusy | hidle
  · rw [fdcStepEnd_busy hbusy]
    exact hspent.trans (runHandler_frame _).callbackFrame
  · rw [fdcStepEnd_idle hidle]
    exact hspent

/-- Carrying an ending out, with its zero-delay chain (R147). -/
theorem finish_frame (fuel : Nat) : ∀ e : HandlerEnd, CallbackFrame e.state (finish fuel e) := by
  have hop : ∀ (u : State) (S : OpStatus), CallbackFrame u (u.withFdc { u.fdc with op := S }) := fun u _ =>
    CallbackFrame.withFdc (.refl u) _
  induction fuel with
  | zero =>
    intro e
    cases e with
    | goto S d u =>
      unfold finish
      split_ifs with hd
      · exact (hop u S).raiseFatal _
      · exact (hop u S).gotoAfter (Nat.pos_of_ne_zero hd)
    | complete u => exact CallbackFrame.withFdc (.refl u) _
    | fatal r u => exact CallbackFrame.raiseFatal (.refl u) r
  | succ fuel ih =>
    intro e
    cases e with
    | goto S d u =>
      unfold finish
      split_ifs with hd
      · exact ((hop u S).takeHandle.trans (fdcStepEnd_frame _)).trans (ih _)
      · exact (hop u S).gotoAfter (Nat.pos_of_ne_zero hd)
    | complete u => exact CallbackFrame.withFdc (.refl u) _
    | fatal r u => exact CallbackFrame.raiseFatal (.refl u) r

theorem State.fdcStep_frame (s : State) : CallbackFrame s s.fdcStep := (fdcStepEnd_frame s).trans (finish_frame _ _)

theorem State.motorOffCb_frame (s : State) : CallbackFrame s s.motorOffCb := by
  unfold State.motorOffCb
  rw [State.readyEdge_eq]
  exact .of_pulses ⟨rfl, rfl⟩ rfl (Nat.le_refl _)

/-- The one thing every callback may do to the clock (R148, R182, R302, R36). -/
theorem State.invoke_frame (s : State) (cb : Callback) : CallbackFrame s (s.invoke cb) := by
  cases cb with
  | fdcStep => exact s.fdcStep_frame
  | motorOff => exact s.motorOffCb_frame
  | indexIrq => exact CallbackFrame.withFdc (.refl s) _
  | external => exact .refl s

/-! ### A state without a handler (R55, R148) -/

theorem onlyFor_of_eq_false {allowed : Bool} (h : allowed = false) (handler : State → HandlerEnd) (s : State) :
    onlyFor allowed handler s = .fatal .noTransition s := by
  rw [h]
  rfl

theorem onPrepare_of_not_handles {s : State} (h : handles s.fdc.cmd .prepare = false) :
    onPrepare s = .fatal .noTransition s := by
  have hcmd : s.fdc.cmd = .forceInterrupt := by simpa [handles] using h
  simp [onPrepare, hcmd, CmdKind.type]

theorem onTypeIStep_of_not_handles {s : State} (h : handles s.fdc.cmd .typeIStep = false) :
    onTypeIStep s = .fatal .noTransition s := by
  unfold onTypeIStep
  split
  case h_6 => rfl
  all_goals
    rename_i hcmd
    rw [hcmd] at h
    cases h

theorem onDelay_of_not_handles {s : State} (h : handles s.fdc.cmd .delay = false) :
    onDelay s = .fatal .noTransition s := by
  unfold onDelay
  split
  case h_6 => rfl
  all_goals
    rename_i hcmd
    rw [hcmd] at h
    cases h

/-- In a state its family has no handler for, the running command raises NoTransition and does nothing else (R148). -/
theorem runHandler_of_not_handles {s : State} (h : handles s.fdc.cmd s.fdc.op = false) :
    runHandler s = .fatal .noTransition s := by
  unfold runHandler
  cases hop : s.fdc.op
  case opDone => rfl
  all_goals rw [hop] at h
  case prepare => exact onPrepare_of_not_handles h
  case typeIStep => exact onTypeIStep_of_not_handles h
  case delay => exact onDelay_of_not_handles h
  case readingAddressData =>
    have hcmd : s.fdc.cmd ≠ .readAddress := fun hcmd => by
      rw [hcmd] at h
      cases h
    exact (if_neg hcmd).trans (onlyFor_of_eq_false h _ s)
  all_goals exact onlyFor_of_eq_false h _ s

/-! ### The bound on a zero-delay chain (R143, R458) -/

/-- A running command's zero-delay transition to `S` ends as the handler of `S` does. -/
theorem gotoNow_follows {s : State} (hl : legalConfig s.cfg = true) (hbusy : s.fdc.busy = true) {S : OpStatus} {e : HandlerEnd}
    (he : gotoNow (s.withFdc { s.fdc with op := S }) = e) :
    legalConfig e.state.cfg = true ∧ e.Follows e.state.fdc.cmd S := by
  have hframe := runHandler_frame (s.entering S)
  rw [← he, gotoNow_busy hbusy, hframe.cfg, hframe.keeps.cmd]
  exact ⟨hl, runHandler_follows (s := s.entering S) hl⟩

theorem gotoNow_idle {s : State} (hidle : s.fdc.busy = false) (S : OpStatus) :
    gotoNow (s.withFdc { s.fdc with op := S }) = .fatal .staleCommandPulse (s.entering S) :=
  fdcStepEnd_idle (s := (s.withFdc { s.fdc with op := S }).takeHandle) hidle

/-- A chain that has its rank as fuel ends the same with more. -/
theorem finish_succ_of_follows (fuel : Nat) : ∀ {e : HandlerEnd} {op : OpStatus}, legalConfig e.state.cfg = true →
    e.Follows e.state.fdc.cmd op → chainRank op ≤ fuel → finish (fuel + 1) e = finish fuel e := by
  induction fuel with
  | zero =>
    intro e op hl hfollows hrank
    cases e with
    | goto S d u =>
      have hd : 0 < d := Nat.pos_of_ne_zero fun hd => by
        have := hfollows.2.1 hd
        omega
      rw [finish_goto_pos _ S u hd, finish_goto_pos _ S u hd]
    | complete u => rw [finish_complete, finish_complete]
    | fatal r u => rw [finish_fatal, finish_fatal]
  | succ fuel ih =>
    intro e op hl hfollows hrank
    cases e with
    | goto S d u =>
      rcases Nat.eq_zero_or_pos d with rfl | hd
      · have hlt : chainRank S < chainRank op := hfollows.2.1 rfl
        rw [finish_goto_zero, finish_goto_zero]
        rcases Bool.eq_false_or_eq_true u.fdc.busy with hbusy | hidle
        · obtain ⟨hl', hfollows'⟩ := gotoNow_follows hl hbusy (S := S) rfl
          exact ih hl' hfollows' (by omega)
        · rw [gotoNow_idle hidle, finish_fatal, finish_fatal]
      · rw [finish_goto_pos _ S u hd, finish_goto_pos _ S u hd]
    | complete u => rw [finish_complete, finish_complete]
    | fatal r u => rw [finish_fatal, finish_fatal]

theorem State.goto_zero (s : State) (S : OpStatus) :
    s.goto S 0 = finish 15 (gotoNow (s.withFdc { s.fdc with op := S })) := finish_goto_zero 15 S s

/-- The callback FdcStep under a fresh handle does what `goto` to the controller's own state does (R147, R148). -/
theorem State.fdcStep_takeHandle {s : State} (hl : legalConfig s.cfg = true) :
    s.takeHandle.fdcStep = s.goto s.fdc.op 0 := by
  have hstep : s.takeHandle.fdcStep = finish 16 (gotoNow (s.withFdc { s.fdc with op := s.fdc.op })) := rfl
  rw [hstep, State.goto_zero]
  rcases Bool.eq_false_or_eq_true s.fdc.busy with hbusy | hidle
  · obtain ⟨hl', hfollows⟩ := gotoNow_follows hl hbusy (S := s.fdc.op) rfl
    exact finish_succ_of_follows 15 hl' hfollows ((chainRank_le _).trans (by decide))
  · rw [gotoNow_idle hidle, finish_fatal, finish_fatal]

/-! ### GOTO (R147, R148, R403) -/

theorem exec_goto {s : State} (h : s.fault = none) (S : OpStatus) (d : Nat) : exec (.goto S d) s = .next (s.goto S d) :=
  guarded_next h _

/-- A transition that raises a Fatal on entering `S` leaves the mark, the state, the spent pulse and the handle it took. -/
theorem exec_goto_of_fatal {s : State} (hfault : s.fault = none) {S : OpStatus} {r : FaultReason}
    (h : gotoNow (s.withFdc { s.fdc with op := S }) = .fatal r (s.entering S)) :
    ∃ k, s.clk.nextHandle ≤ k ∧ exec (.goto S 0) s = .next { s with
      fdc := { s.fdc with op := S, cmdPulse := none }, clk := { s.clk with nextHandle := k }, fault := some r } := by
  refine ⟨s.clk.nextHandle + 1, Nat.le_succ _, ?_⟩
  rw [exec_goto hfault, State.goto_zero, h, finish_fatal]
  rfl

/-- Settles O48: a transition waits, or enters its state at once and finds the controller idle or no handler. -/
theorem goto : Obligations.Goto := by
  unfold Obligations.Goto
  intro S d s hfault
  refine ⟨fun hd => ⟨s.goto S d, exec_goto hfault S d, ?_⟩, fun hidle => ?_, fun hbusy hnone => ?_⟩
  · have hwait : s.goto S d = (s.withFdc { s.fdc with op := S }).gotoAfter d := finish_goto_pos _ S s hd
    rw [hwait, gotoAfter_eq]
    exact ⟨s.clk.nextHandle, s.clk.nextHandle + 1, Nat.le_refl _, Nat.lt_succ_self _, rfl⟩
  · exact exec_goto_of_fatal hfault (gotoNow_idle hidle S)
  · refine exec_goto_of_fatal hfault ?_
    rw [gotoNow_busy hbusy, runHandler_of_not_handles (s := s.entering S) hnone]

end Sys2Proof.Machine
end

section
/-! PROOFS. The scheduler: what Dispatch fires next, Advance and the held Host's tick, RegisterPulse and Expire (40_scheduler.md). -/

namespace Sys2Proof.Machine

/-! ### What Dispatch fires next (R145, R150) -/

theorem Clock.mem_dropExpired {k : Clock} {e : Pulse} : e ∈ k.dropExpired.pulses ↔ e ∈ k.pulses ∧ e.expired = false := by
  simp [Clock.dropExpired]

theorem Pulse.before_iff {a b : Pulse} :
    a.before b = true ↔ a.trigger < b.trigger ∨ (a.trigger = b.trigger ∧ a.seq < b.seq) := by
  simp [Pulse.before]

/-- The live due entry that precedes every other is the one fired next. -/
theorem Clock.nextDue_eq_of_least {k : Clock} {e : Pulse} (hmem : e ∈ k.pulses) (hlive : e.expired = false)
    (hdue : e.trigger ≤ k.ticks)
    (hleast : ∀ e' ∈ k.pulses, e'.expired = false → e'.trigger ≤ k.ticks → e' = e ∨ e.before e' = true) :
    k.nextDue = some e := by
  cases hnext : k.nextDue with
  | none => exact absurd (Clock.nextDue_eq_none.1 hnext e hmem hlive) (Nat.not_lt.2 hdue)
  | some first =>
    obtain ⟨hmem', hlive', hdue', hfirst⟩ := Clock.nextDue_eq_some hnext
    rcases hleast first hmem' hlive' hdue' with rfl | hbefore
    · rfl
    · rcases hfirst e hmem hlive hdue with rfl | hnot
      · rfl
      · exact absurd (hbefore.symm.trans hnot) (by decide)

/-! ### The fuel of Dispatch -/

/-- Every periodic entry moves ahead when it is armed again (R143). -/
def Clock.Rearms (k : Clock) : Prop := ∀ e ∈ k.pulses, e.periodic = true → 0 < e.period

theorem Clock.Rearms.drop {k : Clock} (h : k.Rearms) : k.dropExpired.Rearms := fun e he =>
  h e (Clock.mem_dropExpired.1 he).1

theorem Clock.Rearms.take {k : Clock} (h : k.Rearms) {e : Pulse} (he : e ∈ k.pulses) : (k.take e).Rearms := by
  intro x hx
  rcases Clock.mem_take hx with hx | ⟨-, rfl⟩
  · exact h x hx
  · exact h e he

theorem CallbackFrame.rearms {s u : State} (h : CallbackFrame s u) (hs : s.clk.Rearms) : u.clk.Rearms := by
  obtain ⟨new, hpulses, hnew⟩ := h.pulses
  intro e he hp
  rw [hpulses, List.mem_append] at he
  rcases he with he | he
  · exact hs e he hp
  · exact absurd (hp.symm.trans (hnew e he).1) (by decide)

/-- The entries a callback registers add no work. -/
theorem CallbackFrame.work {s u : State} (h : CallbackFrame s u) : u.clk.work = s.clk.work := by
  obtain ⟨new, hpulses, hnew⟩ := h.pulses
  have hzero : (new.map (Pulse.load s.clk.ticks)).sum = 0 := by
    refine List.sum_eq_zero fun n hn => ?_
    obtain ⟨e, he, rfl⟩ := List.mem_map.1 hn
    exact Nat.sub_eq_zero_of_le (hnew e he).2
  rw [Clock.work_eq, Clock.work_eq, h.ticks, hpulses, List.map_append, List.sum_append, hzero, Nat.add_zero]

/-- `s` without its expired entries. -/
def State.swept (s : State) : State := { s with clk := s.clk.dropExpired }

theorem State.fire_frame (s : State) (e : Pulse) : HostFrame s (s.fire e) :=
  HostFrame.trans (u := { s with clk := s.clk.take e }) ⟨rfl, s.clk.take_ticks e⟩ (State.invoke_frame _ _).toHostFrame

theorem State.fire_swept_rearms {s : State} {e : Pulse} (hs : s.clk.Rearms) (hdue : s.swept.clk.nextDue = some e) :
    (s.swept.fire e).clk.Rearms :=
  (State.invoke_frame { s.swept with clk := s.swept.clk.take e } e.cb).rearms (hs.drop.take (Clock.nextDue_eq_some hdue).1)

/-- Firing the next due entry uses up some of the work. -/
theorem State.work_fire_swept_lt {s : State} {e : Pulse} (hs : s.clk.Rearms) (hdue : s.swept.clk.nextDue = some e) :
    (s.swept.fire e).clk.work < s.clk.work := by
  obtain ⟨hmem, -, htrigger, -⟩ := Clock.nextDue_eq_some hdue
  calc (s.swept.fire e).clk.work
      = (s.swept.clk.take e).work := (State.invoke_frame { s.swept with clk := s.swept.clk.take e } e.cb).work
    _ < s.swept.clk.work := (Clock.work_take hmem (hs.drop e hmem)).2 htrigger
    _ ≤ s.clk.work := s.clk.work_drop

theorem dispatchLoop_of_nextDue_none {s : State} (h : s.swept.clk.nextDue = none) (fuel : Nat) :
    dispatchLoop fuel s = s.swept := by
  have h' : s.clk.dropExpired.nextDue = none := h
  cases fuel <;> simp [dispatchLoop, h', State.swept]

theorem dispatchLoop_of_nextDue_some {s : State} {e : Pulse} (h : s.swept.clk.nextDue = some e) (fuel : Nat) :
    dispatchLoop (fuel + 1) s =
      if (s.swept.fire e).fault = none then dispatchLoop fuel (s.swept.fire e) else s.swept.fire e := by
  have h' : s.clk.dropExpired.nextDue = some e := h
  cases hfault : (s.swept.fire e).fault <;> simp_all [dispatchLoop, State.swept]

/-- Any two amounts of fuel that cover the work carry a Dispatch to the same end. -/
theorem dispatchLoop_eq_of_work_le (fuel : Nat) : ∀ {fuel' : Nat} {s : State}, s.clk.Rearms → s.clk.work ≤ fuel →
    s.clk.work ≤ fuel' → dispatchLoop fuel s = dispatchLoop fuel' s := by
  induction fuel with
  | zero =>
    intro fuel' s hs hwork _
    have hnone : s.swept.clk.nextDue = none := by
      rw [Option.eq_none_iff_forall_ne_some]
      intro e hdue
      have := State.work_fire_swept_lt hs hdue
      omega
    rw [dispatchLoop_of_nextDue_none hnone, dispatchLoop_of_nextDue_none hnone]
  | succ fuel ih =>
    intro fuel' s hs hwork hwork'
    cases hdue : s.swept.clk.nextDue with
    | none => rw [dispatchLoop_of_nextDue_none hdue, dispatchLoop_of_nextDue_none hdue]
    | some e =>
      have hlt := State.work_fire_swept_lt hs hdue
      obtain ⟨n, rfl⟩ : ∃ n, fuel' = n + 1 := Nat.exists_eq_add_one_of_ne_zero (by omega)
      rw [dispatchLoop_of_nextDue_some hdue, dispatchLoop_of_nextDue_some hdue,
        ih (fuel' := n) (State.fire_swept_rearms hs hdue) (by omega) (by omega)]

/-- With nothing due Dispatch only drops the expired entries. -/
theorem State.dispatchDue_of_nextDue_none {s : State} (h : s.swept.clk.nextDue = none) : s.dispatchDue = s.swept :=
  dispatchLoop_of_nextDue_none h _

/-- Dispatch fires the next due entry, and goes on from there unless a Fatal was raised (R145, R149). -/
theorem State.dispatchDue_of_nextDue_some {s : State} {e : Pulse} (hs : s.clk.Rearms) (hdue : s.swept.clk.nextDue = some e) :
    s.dispatchDue =
      if (s.swept.fire e).fault = none then (s.swept.fire e).dispatchDue else s.swept.fire e := by
  have hlt := State.work_fire_swept_lt hs hdue
  obtain ⟨n, hn⟩ : ∃ n, s.clk.work = n + 1 := Nat.exists_eq_add_one_of_ne_zero (by omega)
  rw [State.dispatchDue, hn, dispatchLoop_of_nextDue_some hdue,
    dispatchLoop_eq_of_work_le n (State.fire_swept_rearms hs hdue) (by omega) (Nat.le_refl _)]
  rfl

theorem exec_dispatch {s : State} (h : s.fault = none) : exec .dispatch s = .next s.dispatchDue := guarded_next h _

/-- Settles O46: the least due entry is the one `nextDue` finds, and the fuel left after it fires covers the rest. -/
theorem dispatchOrder : Obligations.DispatchOrder := by
  unfold Obligations.DispatchOrder
  intro s hfault hperiods live
  rw [exec_dispatch hfault]
  refine ⟨fun hfuture => ?_, fun e hmem hdue hleast => ?_⟩
  · rw [State.dispatchDue_of_nextDue_none (Clock.nextDue_eq_none.2 fun e he _ => hfuture e he)]
    rfl
  · intro u
    have hnext : s.swept.clk.nextDue = some e := by
      refine Clock.nextDue_eq_of_least hmem (Clock.mem_dropExpired.1 hmem).2 hdue fun e' he' _ hdue' => ?_
      rw [Pulse.before_iff]
      exact hleast e' he' hdue'
    have hfire : s.swept.fire e = u := rfl
    rw [State.dispatchDue_of_nextDue_some hperiods hnext, hfire]
    split_ifs with hu
    · exact (exec_dispatch hu).symm
    · rfl

/-! ### Advance (R141, R142) -/

theorem dispatchLoop_frame (fuel : Nat) : ∀ s : State, HostFrame s (dispatchLoop fuel s) := by
  have hsweep : ∀ s : State, HostFrame s s.swept := fun _ => ⟨rfl, rfl⟩
  induction fuel with
  | zero =>
    intro s
    unfold dispatchLoop
    dsimp only
    split_ifs
    · exact hsweep s
    · exact (hsweep s).trans ⟨rfl, rfl⟩
  | succ fuel ih =>
    intro s
    cases hdue : s.swept.clk.nextDue with
    | none =>
      rw [dispatchLoop_of_nextDue_none hdue]
      exact hsweep s
    | some e =>
      have hfire := (hsweep s).trans (s.swept.fire_frame e)
      rw [dispatchLoop_of_nextDue_some hdue]
      split_ifs
      · exact hfire.trans (ih _)
      · exact hfire

theorem State.dispatchDue_frame (s : State) : HostFrame s s.dispatchDue := dispatchLoop_frame _ s

theorem State.unitCost_eq (s : State) (n : Nat) :
    s.unitCost n = if s.fdc.waitReq = true ∧ s.inUnit = false then s.cfg.waitTstates else n := by
  simp [State.unitCost, State.held]

theorem State.advanceBy_of_overflow {s : State} {n : Nat}
    (h : 2 ^ 64 ≤ s.clk.ticks + s.unitCost n * s.cfg.ticksPerTstate) : s.advanceBy n = s.raiseFatal .clockOverflow := if_pos h

theorem State.advanceBy_of_lt {s : State} {n : Nat} (h : s.clk.ticks + s.unitCost n * s.cfg.ticksPerTstate < 2 ^ 64) :
    s.advanceBy n = (s.atTick (s.clk.ticks + s.unitCost n * s.cfg.ticksPerTstate)).dispatchDue :=
  if_neg (Nat.not_le.2 h)

theorem exec_advance {s : State} (h : s.fault = none) (n : Nat) : exec (.advance n) s = .next (s.advanceBy n) :=
  guarded_next h _

/-- Settles O47: below 2^64 an Advance is a Dispatch at the new tick, whose callbacks leave the tick and the Host alone. -/
theorem advance : Obligations.Advance := by
  unfold Obligations.Advance
  intro n s hfault now
  have hnow : now = s.clk.ticks + s.unitCost n * s.cfg.ticksPerTstate := by rw [State.unitCost_eq]
  rw [exec_advance hfault]
  refine ⟨fun hover => ?_, fun hbelow => ?_⟩
  · rw [State.advanceBy_of_overflow (hnow ▸ hover)]
    rfl
  · have hframe := (s.atTick now).dispatchDue_frame
    rw [State.advanceBy_of_lt (hnow ▸ hbelow), ← hnow]
    refine ⟨(exec_dispatch (s := s.atTick now) hfault).symm, _, rfl, hframe.ticks, ?_⟩
    rw [hframe.shape]
    exact ⟨rfl, rfl, rfl, rfl⟩

/-! ### The held Host (R141, R456) -/

theorem step_of_held {s : State} (hfault : s.fault = none) (hop : s.operatorNow = none) (hheld : s.held = true) :
    step s = .next (s.advanceBy s.cfg.waitTstates) := by
  have hevent : s.nextEvent = .heldTick := by simp [State.nextEvent, hfault, hop, hheld]
  simp [step, hevent]

/-- Settles O7: a held Host's step is an Advance by the wait-state tick, and its Dispatch leaves the script alone. -/
theorem heldTick : Obligations.HeldTick := by
  unfold Obligations.HeldTick
  intro s hfault hop hwait hunit hbelow
  have hcost : s.unitCost s.cfg.waitTstates = s.cfg.waitTstates := by rw [State.unitCost_eq, if_pos ⟨hwait, hunit⟩]
  have hstep := step_of_held hfault hop (by simp [State.held, hwait, hunit])
  rw [State.advanceBy_of_lt (by rw [hcost]; exact hbelow), hcost] at hstep
  have hframe := (s.atTick (s.clk.ticks + s.cfg.waitTstates * s.cfg.ticksPerTstate)).dispatchDue_frame
  refine ⟨_, hstep, by rw [hframe.shape]; rfl, hframe.ticks, fun hfuture => ?_⟩
  have hnone : (s.atTick (s.clk.ticks + s.cfg.waitTstates * s.cfg.ticksPerTstate)).swept.clk.nextDue = none :=
    Clock.nextDue_eq_none.2 fun e he => hfuture e (Clock.mem_dropExpired.1 he).1
  rw [State.dispatchDue_of_nextDue_none hnone, State.swept, State.atTick, ← hunit]
  rfl

/-! ### RegisterPulse and Expire (R143, R144) -/

/-- Cyclic scheduling without a delay or a period is a caller error (R143, R403). -/
theorem State.registerPulse_callerError (s : State) (cb : Callback) {delay period : Nat} (h : delay = 0 ∨ period = 0) :
    s.registerPulse cb delay true period =
      s.takeHandle.raiseFatal (if period = 0 then .zeroPeriod else .zeroDelayPeriodic) := by
  by_cases hperiod : period = 0
  · simp [State.registerPulse, hperiod]
  · simp [State.registerPulse, hperiod, h.resolve_right hperiod]

/-- A one-shot registration without delay inserts nothing and invokes the callback now (R143). -/
theorem State.registerPulse_now (s : State) (cb : Callback) (period : Nat) :
    s.registerPulse cb 0 false period = s.takeHandle.invoke cb := by
  simp [State.registerPulse]

theorem exec_registerPulse {s : State} (h : s.fault = none) (cb : Callback) (delay : Nat) (periodic : Bool) (period : Nat) :
    exec (.registerPulse cb delay periodic period) s =
      .next { (s.registerPulse cb delay periodic period) with hostHandle := s.clk.nextHandle } := guarded_next h _

/-- Settles O44, by the ways a registration can go: it waits, it is a caller error, or its callback runs now. -/
theorem registerPulse : Obligations.RegisterPulse := by
  unfold Obligations.RegisterPulse
  intro cb delay periodic period s hfault
  have hfresh : s.clk.nextHandle ≤ s.clk.nextHandle ∧ s.clk.nextHandle < s.clk.nextHandle + 1 :=
    ⟨Nat.le_refl _, Nat.lt_succ_self _⟩
  simp only [exec_registerPulse hfault, State.registerPulse_now]
  refine ⟨fun hdelay hperiod => ?_, fun hperiodic herror => ?_, ⟨_, _, hfresh.1, hfresh.2, rfl⟩,
    ⟨_, _, hfresh.1, hfresh.2, rfl⟩, fun hl => ?_⟩
  · rw [State.registerPulse_waits s cb hdelay hperiod]
    exact ⟨_, _, hfresh.1, hfresh.2, rfl⟩
  · rw [hperiodic, State.registerPulse_callerError s cb herror]
    exact ⟨_, _, hfresh.1, hfresh.2, rfl⟩
  · have hstep : s.takeHandle.invoke .fdcStep = s.goto s.fdc.op 0 := State.fdcStep_takeHandle hl
    have hframe := s.takeHandle.invoke_frame .fdcStep
    rw [hstep] at hframe ⊢
    exact ⟨s.clk.nextHandle, _, hfresh.1, hframe.nextHandle, exec_goto hfault _ _, rfl⟩

/-- Settles O45: the two ways to write the expired mark agree on every entry. -/
theorem expire : Obligations.Expire := by
  unfold Obligations.Expire
  intro h s hfault
  have hmark : ∀ e : Pulse, (if e.handle = h then { e with expired := true } else e) =
      { e with expired := e.expired || e.handle == h } := by
    intro e
    split_ifs with hh
    · rw [hh, beq_self_eq_true, Bool.or_true]
    · rw [beq_false_of_ne hh, Bool.or_false]
  have hexec : exec (.expire h) s = .next (s.expirePulse h) := guarded_next hfault _
  simp only [hexec, State.expirePulse, hmark]

end Sys2Proof.Machine
end

section
/-! PROOFS. The status byte, the track, sector and data ports, the select port, and the motor's timeout (41_registers.md). -/

namespace Sys2Proof.Machine

/-! ### Reads and writes of a register (R172 to R178) -/

/-- Settles O8: the status is composed before INTRQ is cleared, and has no INTRQ bit. -/
theorem statusRead : Obligations.StatusRead := by
  unfold Obligations.StatusRead
  exact fun s hfault => guarded_next hfault _

/-- Settles O10: each of the ports reads or writes its own register. -/
theorem registerPorts : Obligations.RegisterPorts := by
  unfold Obligations.RegisterPorts
  intro v s hfault
  refine ⟨?_, ?_, ?_, ?_, ?_, ?_, undrivenByte, ?_⟩ <;> exact guarded_next hfault _

/-! ### The status byte (R181) -/

/-- The bits of a byte put together from eight flags, the highest first. -/
theorem getLsbD_byteOfFlags : ∀ b7 b6 b5 b4 b3 b2 b1 b0 : Bool, ∀ i : Fin 8,
    (BitVec.ofBool b7 ++ BitVec.ofBool b6 ++ BitVec.ofBool b5 ++ BitVec.ofBool b4 ++ BitVec.ofBool b3 ++ BitVec.ofBool b2 ++
      BitVec.ofBool b1 ++ BitVec.ofBool b0).getLsbD i = #v[b0, b1, b2, b3, b4, b5, b6, b7][i] := by
  decide

theorem State.status_getLsbD (s : State) (i : Fin 8) : s.status.getLsbD i =
    #v[s.fdc.busy, s.statusIndex, s.statusTrk0, s.fdc.crcErr, s.fdc.seekErr, s.statusHead, s.statusWp, !s.ready][i] :=
  getLsbD_byteOfFlags _ _ _ _ _ _ _ _ i

theorem State.ready_iff (s : State) :
    s.ready = true ↔ ∃ n, s.fdc.selDrive = some n ∧ (s.drive n).medium ≠ none ∧ s.motorOn = true := by
  unfold State.ready
  cases s.fdc.selDrive <;> simp [Option.isSome_iff_ne_none]

theorem State.wpSel_iff (s : State) :
    s.wpSel = true ↔ ∃ n m, s.fdc.selDrive = some n ∧ (s.drive n).medium = some m ∧ m.writeProtected = true := by
  unfold State.wpSel State.wp
  cases s.fdc.selDrive with
  | none => simp
  | some n => cases hm : (s.drive n).medium <;> simp [hm]

theorem State.trk0_iff (s : State) : s.trk0 = true ↔ ∃ n, s.fdc.selDrive = some n ∧ (s.drive n).physTrack = 0 := by
  unfold State.trk0
  cases s.fdc.selDrive <;> simp

/-- Settles O9: each bit is one flag of the layout shown. -/
theorem statusBits : Obligations.StatusBits := by
  unfold Obligations.StatusBits
  intro s
  have hbit := s.status_getLsbD
  refine ⟨?_, hbit 4, hbit 3, hbit 0, fun hmode => ?_, fun hmode => ?_⟩
  · have hready : s.status.getLsbD 7 = !s.ready := hbit 7
    rw [hready, ← State.ready_iff, Bool.not_eq_true', Bool.not_eq_true]
  · have hwp : s.statusWp = s.wpSel := by rw [State.statusWp, hmode]
    have hhead : s.statusHead = s.fdc.headLoaded := by rw [State.statusHead, hmode]
    have htrk0 : s.statusTrk0 = s.trk0 := by rw [State.statusTrk0, hmode]
    have hindex : s.statusIndex = (s.ready && decide (angle s.cfg s.clk.ticks < s.cfg.indexPpm)) := by
      rw [State.statusIndex, hmode]
    refine ⟨?_, (hbit 5).trans hhead, ?_, ?_⟩
    · rw [show s.status.getLsbD 6 = s.wpSel from (hbit 6).trans hwp, State.wpSel_iff]
    · rw [show s.status.getLsbD 2 = s.trk0 from (hbit 2).trans htrk0, State.trk0_iff]
    · rw [show s.status.getLsbD 1 = _ from (hbit 1).trans hindex, Bool.and_eq_true, decide_eq_true_eq]
  · have hwp : s.statusWp = s.fdc.wpErr := by rw [State.statusWp, hmode]
    have hhead : s.statusHead = s.fdc.recordType := by rw [State.statusHead, hmode]
    have htrk0 : s.statusTrk0 = s.fdc.lostData := by rw [State.statusTrk0, hmode]
    have hindex : s.statusIndex = s.fdc.drq := by rw [State.statusIndex, hmode]
    exact ⟨(hbit 6).trans hwp, (hbit 5).trans hhead, (hbit 2).trans htrk0, (hbit 1).trans hindex⟩

/-! ### The select port (R179) -/

theorem lowestDrive_of_one_bit : ∀ (v : Byte) (n : Fin 4), v &&& 0x0F = 1#8 <<< n.val → lowestDrive v = some n := by
  decide

theorem lowestDrive_isSome : ∀ v : Byte, (lowestDrive v).isSome = decide (v &&& 0x0F ≠ 0) := by decide

theorem lowestDrive_eq_none_iff (v : Byte) : lowestDrive v = none ↔ v &&& 0x0F = 0 := by
  rw [← Option.isNone_iff_eq_none, ← Option.not_isSome, lowestDrive_isSome]
  simp

/-- Of four drives every one is present (R64). -/
theorem presentDrive_of_four {c : Config} (h : c.numDrives = 4) (n : Fin 4) : presentDrive c n = some n :=
  if_pos (by rw [h]; exact n.isLt)

theorem selects_selDrive {s t : State} {drive : Option (Fin 4)} {side dd wait driveBit : Bool}
    (h : selects s drive side dd wait driveBit t) : t.fdc.selDrive = drive := by
  obtain ⟨_, -, hfdc, -⟩ := h
  rw [hfdc]

/-- A select write selects what its lowest drive bit names (R179, R111). -/
theorem State.writeSelect_selects {s : State} (hl : legalConfig s.cfg = true) (v : Byte) :
    selects s ((lowestDrive v).bind (presentDrive s.cfg)) (v.getLsbD 4) (v.getLsbD 7)
      (v.getLsbD 6 && !(s.fdc.drq || s.fdc.intrq)) (decide (v &&& 0x0F ≠ 0))
      (({ s with inUnit := true } : State).writeSelect v) := by
  rw [← lowestDrive_isSome]
  exact State.select_selects hl _ _ _ _ _

theorem exec_wrSelect {s : State} (h : s.fault = none) (v : Byte) :
    exec (.wrSelect v) s = .next (({ s with inUnit := true } : State).writeSelect v) := guarded_next h _

theorem step_of_selectDrive {s : State} {n : Fin 4} {side : Bool} {rest : List HostItem} (hfault : s.fault = none)
    (hop : s.operatorNow = none) (hheld : s.held = false) (hscript : s.script = .selectDrive n side :: rest) :
    step s = .next (({ s with script := rest, inUnit := true } : State).selectDrive n side) := by
  have hevent : s.nextEvent = .selectDrive n side { s with script := rest } := by
    rw [State.nextEvent_eq_hostEvent hfault hop hheld, State.hostEvent, hscript]
  rw [step, hevent]
  exact portAccess_next (s := { s with script := rest }) hfault _

/-- Settles O11: both are one select, of the drive that the lowest drive bit or the number names. -/
theorem selectWrite : Obligations.SelectWrite := by
  unfold Obligations.SelectWrite
  constructor
  · intro v s hfault hl
    have hselects := State.writeSelect_selects hl v
    have hdrive := selects_selDrive hselects
    refine ⟨_, exec_wrSelect hfault v, fun n hn => ?_, fun hnone => ?_, fun hfour hnone => ?_, by rw [hdrive]; exact hselects⟩
    · rw [hdrive, lowestDrive_of_one_bit v n hn]
      rfl
    · rw [hdrive, (lowestDrive_eq_none_iff v).2 hnone]
      rfl
    · rw [hdrive] at hnone
      cases hlow : lowestDrive v with
      | none => exact (lowestDrive_eq_none_iff v).1 hlow
      | some n =>
        rw [hlow, Option.bind_some, presentDrive_of_four hfour] at hnone
        cases hnone
  · intro n side rest s hfault hl hop hheld hscript
    exact ⟨_, step_of_selectDrive hfault hop hheld hscript,
      State.select_selects (s := { s with script := rest }) hl (presentDrive s.cfg n) side s.fdc.dd s.fdc.waitReq true⟩

/-! ### The motor's timeout (R182) -/

/-- MotorOff: with the motor off the drive is not ready, so only the edge to not ready can fire (R306). -/
theorem State.motorOffCb_eq (s : State) : s.motorOffCb = { s with
    motorPulse := none, motorOn := false, motorIrq := true, lastReady := false
    fdc := if s.fdc.armI1 && s.lastReady then { s.fdc with intrq := true, waitReq := false } else s.fdc } := by
  have hready : ({ s with motorPulse := none, motorOn := false, motorIrq := true } : State).ready = false := by
    unfold State.ready
    cases s.fdc.selDrive <;> simp
  unfold State.motorOffCb
  rw [State.readyEdge_eq, hready]
  cases hedge : s.fdc.armI1 && s.lastReady <;> simp

/-- Settles O12: RegisterPulse without delay takes a handle and invokes MotorOff. -/
theorem motorTimeout : Obligations.MotorTimeout := by
  unfold Obligations.MotorTimeout
  intro period s hfault
  refine ⟨s.clk.nextHandle, s.clk.nextHandle + 1, Nat.le_refl _, Nat.lt_succ_self _, ?_⟩
  rw [exec_registerPulse hfault, State.registerPulse_now, State.invoke, State.motorOffCb_eq]
  rfl

end Sys2Proof.Machine
end

section
/-! PROOFS. The zero-delay chain a command starts with: what it may change on its way, and how it ends, for the Type I loop and
for the start of Types II and III (R147, R202 to R207, R230, R279). -/

namespace Sys2Proof.Machine

/-! ### On the way down a chain (R147, R148) -/

/-- `u` is `s` further down a zero-delay chain: only the sequencer state, the command's pulse and the handles taken differ. -/
def OnChain (s u : State) : Prop :=
  ∃ S pulse k, s.clk.nextHandle ≤ k ∧ u = { s with
    fdc := { s.fdc with op := S, cmdPulse := pulse }, clk := { s.clk with nextHandle := k } }

/-- Entering a state takes one handle (R143, R147). -/
theorem State.onChain_entering (s : State) (S : OpStatus) : OnChain s (s.entering S) :=
  ⟨S, none, s.clk.nextHandle + 1, Nat.le_succ _, rfl⟩

/-- An update of the controller that leaves the sequencer state and the pulse alone commutes with a chain. -/
theorem OnChain.withFdc {s u : State} (h : OnChain s u) {update : Fdc → Fdc}
    (hupdate : ∀ f S pulse, update { f with op := S, cmdPulse := pulse } = { update f with op := S, cmdPulse := pulse }) :
    OnChain (s.withFdc (update s.fdc)) (u.withFdc (update u.fdc)) := by
  obtain ⟨S, pulse, k, hk, rfl⟩ := h
  exact ⟨S, pulse, k, hk, congrArg (State.withFdc _) (hupdate s.fdc S pulse)⟩

/-- Reporting an error (R47) leaves the sequencer state and the pulse alone. -/
theorem reports_onChain (f : Fdc) (e : ErrorFlag) (S : OpStatus) (pulse : Option Nat) :
    reports { f with op := S, cmdPulse := pulse } e = { reports f e with op := S, cmdPulse := pulse } := by
  have hcount : Fdc.errorCount { f with op := S, cmdPulse := pulse } = f.errorCount := rfl
  unfold reports
  rw [hcount]
  split_ifs
  · cases e <;> rfl
  · rfl

theorem waitsAfter_of_onChain {s u t : State} {S : OpStatus} {d : Nat} (h : OnChain s u) (hwaits : waitsAfter u S d t) :
    waitsAfter s S d t := by
  obtain ⟨S₀, pulse, k₀, hk₀, rfl⟩ := h
  obtain ⟨handle, k, hhandle, hk, rfl⟩ := hwaits
  exact ⟨handle, k, hk₀.trans hhandle, hk, rfl⟩

theorem completesAs_of_onChain {s u t : State} (h : OnChain s u) (hcomplete : completesAs u t) : completesAs s t := by
  obtain ⟨S₀, pulse, k₀, hk₀, rfl⟩ := h
  obtain ⟨k, hk, rfl⟩ := hcomplete
  exact ⟨k, hk₀.trans hk, rfl⟩

/-- A test with the same answer before and further down a chain. -/
theorem ite_of_branches {c : Prop} [Decidable c] {p q p' q' : Prop} (hp : p → p') (hq : q → q') (h : if c then p else q) :
    if c then p' else q' := by
  split_ifs at h ⊢
  · exact hp h
  · exact hq h

/-! ### Carrying an ending out (R147, R210) -/

/-- A transition with a delay (R147). -/
theorem finish_waits (n : Nat) (S : OpStatus) {d : Nat} (hd : 0 < d) (s : State) :
    waitsAfter s S d (finish n (.goto S d s)) := by
  rw [finish_goto_pos n S s hd]
  exact ⟨s.clk.nextHandle, s.clk.nextHandle + 1, Nat.le_refl _, Nat.lt_succ_self _, rfl⟩

/-- A zero-delay transition of a running command runs the handler (R147). -/
theorem finish_enters (n : Nat) (S : OpStatus) {s : State} (hbusy : s.fdc.busy = true) :
    finish (n + 1) (.goto S 0 s) = finish n (runHandler (s.entering S)) := by
  rw [finish_goto_zero, gotoNow_busy hbusy]

theorem onlyFor_of_eq_true {allowed : Bool} (h : allowed = true) (handler : State → HandlerEnd) (s : State) :
    onlyFor allowed handler s = handler s := if_pos h

/-- A command whose last transition goes to NMI completes (R210, R410). -/
theorem finish_completes (n : Nat) {s : State} (hbusy : s.fdc.busy = true) (hcmd : s.fdc.cmd ≠ .forceInterrupt) :
    completesAs s (finish (n + 1) (.goto .nmi 0 s)) := by
  have hnmi : runHandler (s.entering .nmi) = onNmi (s.entering .nmi) := onlyFor_of_eq_true (bne_iff_ne.2 hcmd) _ _
  rw [finish_enters n .nmi hbusy, hnmi, onNmi, finish_complete]
  exact ⟨s.clk.nextHandle + 1, Nat.le_succ _, rfl⟩

/-! ### Type I (R202 to R207) -/

/-- R202 to R204: the loop of a Type I command, by command. -/
def typeIGoes (s t : State) : Prop :=
  match s.fdc.cmd with
  | .restore => restoreGoes s t
  | .seek => seekGoes s t
  | .step | .stepIn | .stepOut => stepGoes s t
  | _ => False

theorem CmdKind.ne_forceInterrupt_of_isTypeI {k : CmdKind} (h : k.isTypeI = true) : k ≠ .forceInterrupt := by
  rintro rfl
  cases h

theorem endsTypeI_of_onChain {s u t : State} (h : OnChain s u) (hends : endsTypeI u t) : endsTypeI s t := by
  obtain ⟨S, pulse, k, hk, rfl⟩ := id h
  exact ite_of_branches (waitsAfter_of_onChain h) (completesAs_of_onChain h) hends

theorem restoreGoes_of_onChain {s u t : State} (h : OnChain s u) (hgoes : restoreGoes u t) : restoreGoes s t := by
  have hreports := h.withFdc (update := (reports · .seekErr)) (reports_onChain · .seekErr)
  obtain ⟨S, pulse, k, hk, rfl⟩ := h
  exact ite_of_branches (endsTypeI_of_onChain ⟨S, pulse, k, hk, rfl⟩)
    (ite_of_branches (completesAs_of_onChain hreports) (waitsAfter_of_onChain ⟨S, pulse, k, hk, rfl⟩)) hgoes

theorem seekGoes_of_onChain {s u t : State} (h : OnChain s u) (hgoes : seekGoes u t) : seekGoes s t := by
  obtain ⟨S, pulse, k, hk, rfl⟩ := id h
  exact ite_of_branches (endsTypeI_of_onChain h)
    (ite_of_branches (waitsAfter_of_onChain ⟨S, pulse, k, hk, rfl⟩)
      (ite_of_branches (endsTypeI_of_onChain ⟨S, pulse, k, hk, rfl⟩)
        (waitsAfter_of_onChain ⟨S, pulse, k, hk, rfl⟩))) hgoes

theorem stepGoes_of_onChain {s u t : State} (h : OnChain s u) (hgoes : stepGoes u t) : stepGoes s t := by
  obtain ⟨S, pulse, k, hk, rfl⟩ := id h
  exact ite_of_branches (endsTypeI_of_onChain h)
    (ite_of_branches (endsTypeI_of_onChain ⟨S, pulse, k, hk, rfl⟩) (waitsAfter_of_onChain ⟨S, pulse, k, hk, rfl⟩)) hgoes

theorem typeIGoes_of_onChain {s u t : State} (h : OnChain s u) (hgoes : typeIGoes u t) : typeIGoes s t := by
  have hcmd : u.fdc.cmd = s.fdc.cmd := by
    obtain ⟨S, pulse, k, hk, rfl⟩ := h
    rfl
  unfold typeIGoes at hgoes ⊢
  rw [hcmd] at hgoes
  cases hk : s.fdc.cmd <;> rw [hk] at hgoes
  case restore => exact restoreGoes_of_onChain h hgoes
  case seek => exact seekGoes_of_onChain h hgoes
  case step | stepIn | stepOut => exact stepGoes_of_onChain h hgoes
  all_goals exact hgoes

section TypeI
variable {s : State} (hl : legalConfig s.cfg = true) (hbusy : s.fdc.busy = true) (hcmd : s.fdc.cmd.isTypeI = true) (n : Nat)
include hl hbusy hcmd

/-- R207: the end of the loop. -/
theorem finish_checkVerify : endsTypeI s (finish (n + 2) (.goto .checkVerify 0 s)) := by
  have hrun : runHandler (s.entering .checkVerify) = onCheckVerify (s.entering .checkVerify) := onlyFor_of_eq_true hcmd _ _
  refine endsTypeI_of_onChain (s.onChain_entering .checkVerify) ?_
  rw [finish_enters _ _ hbusy, hrun]
  unfold endsTypeI onCheckVerify State.flagV
  split_ifs
  · exact finish_waits _ _ (State.settleDelay_pos (s := s.entering .checkVerify) hl) _
  · exact finish_completes n (s := s.entering .checkVerify) hbusy (CmdKind.ne_forceInterrupt_of_isTypeI hcmd)

theorem finish_onRestoreStep : restoreGoes s (finish (n + 2) (onRestoreStep s)) := by
  have hkeeps := reports_keeps s.cfg s.fdc .seekErr
  unfold restoreGoes onRestoreStep
  dsimp only
  rw [State.setError_eq]
  split_ifs
  · refine finish_checkVerify (s := s.withFdc _) ?_ ?_ ?_ n <;> assumption
  · exact finish_completes (n + 1) (s := s.withFdc _) (hkeeps.busy hbusy)
      (hkeeps.cmd ▸ CmdKind.ne_forceInterrupt_of_isTypeI hcmd)
  · rw [State.stepHead_eq]
    exact finish_waits _ _ (State.stepDelay_pos hl) _

theorem finish_onSeekStep : seekGoes s (finish (n + 2) (onSeekStep s)) := by
  unfold seekGoes onSeekStep
  dsimp only
  by_cases hsame : s.fdc.tr = s.fdc.dr
  · rw [if_pos hsame, if_pos hsame]
    exact finish_checkVerify hl hbusy hcmd n
  rw [if_neg hsame, if_neg hsame]
  by_cases hin : s.fdc.tr < s.fdc.dr
  · have hdir : seekDir s.fdc.tr s.fdc.dr = .inward := if_pos hin
    rw [if_pos hin, hdir, if_neg (by simp), State.stepHead_eq]
    exact finish_waits _ _ (State.stepDelay_pos hl) _
  · have hdir : seekDir s.fdc.tr s.fdc.dr = .outward := if_neg hin
    rw [if_neg hin, hdir]
    by_cases htrk0 : s.trk0 = true
    · rw [if_pos htrk0, if_pos ⟨rfl, htrk0⟩]
      refine finish_checkVerify (s := s.withFdc _) ?_ ?_ ?_ n <;> assumption
    · rw [if_neg htrk0, if_neg fun h => htrk0 h.2, State.stepHead_eq]
      exact finish_waits _ _ (State.stepDelay_pos hl) _

theorem finish_onStepStep : stepGoes s (finish (n + 2) (onStepStep s)) := by
  unfold stepGoes onStepStep State.flagU
  dsimp only
  split
  · exact finish_checkVerify hl hbusy hcmd n
  · split
    · refine finish_checkVerify (s := s.withFdc _) ?_ ?_ ?_ n <;> assumption
    · rw [State.stepHead_eq]
      exact finish_waits _ _ (State.stepDelay_pos hl) _

/-- One test of the loop of a running Type I command (R202 to R204). -/
theorem finish_typeIStep : typeIGoes s (finish (n + 3) (.goto .typeIStep 0 s)) := by
  have hrun : runHandler (s.entering .typeIStep) = onTypeIStep (s.entering .typeIStep) := rfl
  refine typeIGoes_of_onChain (s.onChain_entering .typeIStep) ?_
  rw [finish_enters _ _ hbusy, hrun]
  unfold typeIGoes onTypeIStep
  cases hkind : (s.entering .typeIStep).fdc.cmd with
  | restore => exact finish_onRestoreStep (s := s.entering .typeIStep) hl hbusy hcmd n
  | seek => exact finish_onSeekStep (s := s.entering .typeIStep) hl hbusy hcmd n
  | step | stepIn | stepOut => exact finish_onStepStep (s := s.entering .typeIStep) hl hbusy hcmd n
  | _ =>
    rw [show s.fdc.cmd = _ from hkind] at hcmd
    cases hcmd

end TypeI

/-! ### The start of Types II and III (R230, R231, R279, R280, R286) -/

theorem delivered_onChain (f : Fdc) (v : Byte) (S : OpStatus) (pulse : Option Nat) :
    delivered { f with op := S, cmdPulse := pulse } v = { delivered f v with op := S, cmdPulse := pulse } := by
  unfold delivered
  rw [reports_onChain]
  cases f.drq <;> rfl

/-- Delivering a byte touches DR, the lines to the Host and an error flag (R244). -/
theorem delivered_shape (f : Fdc) (v : Byte) : delivered f v = { f with
    seekErr := (delivered f v).seekErr, crcErr := (delivered f v).crcErr, lostData := (delivered f v).lostData,
    wpErr := (delivered f v).wpErr, dr := v, drq := true, waitReq := false } := by
  unfold delivered
  cases f.drq with
  | false => rfl
  | true => rw [if_pos rfl, reports_shape]

theorem searchBegins_of_onChain {s u t : State} (h : OnChain s u) (hgoes : searchBegins u t) : searchBegins s t := by
  obtain ⟨S, pulse, k, hk, rfl⟩ := h
  exact waitsAfter_of_onChain ⟨S, pulse, k, hk, rfl⟩ hgoes

theorem writeTrackAsks_of_onChain {s u t : State} (h : OnChain s u) (hgoes : writeTrackAsks u t) : writeTrackAsks s t := by
  obtain ⟨S, pulse, k, hk, rfl⟩ := h
  exact waitsAfter_of_onChain ⟨S, pulse, k, hk, rfl⟩ hgoes

theorem readSlotGoes_of_onChain {s u t : State} (h : OnChain s u) (hgoes : readSlotGoes u t) : readSlotGoes s t := by
  have hread : OnChain s.afterRead u.afterRead := by
    obtain ⟨S, pulse, k, hk, rfl⟩ := h
    exact ⟨S, pulse, k, hk, rfl⟩
  have hslot := hread.withFdc (update := fun f => { delivered f s.logicalByte.1 with slot := s.fdc.slot + 1 })
    fun f S pulse => by rw [delivered_onChain]
  obtain ⟨S, pulse, k, hk, rfl⟩ := h
  exact ite_of_branches (waitsAfter_of_onChain hslot) (completesAs_of_onChain hslot) hgoes

theorem readTrackBegins_of_onChain {s u t : State} (h : OnChain s u) (hgoes : readTrackBegins u t) :
    readTrackBegins s t := by
  obtain ⟨S, pulse, k, hk, rfl⟩ := h
  exact ite_of_branches (readSlotGoes_of_onChain ⟨S, pulse, k, hk, rfl⟩)
    (waitsAfter_of_onChain ⟨S, pulse, k, hk, rfl⟩) hgoes

theorem afterSettle_of_onChain {s u t : State} (h : OnChain s u) (hgoes : afterSettle u t) : afterSettle s t := by
  have hcmd : u.fdc.cmd = s.fdc.cmd := by
    obtain ⟨S, pulse, k, hk, rfl⟩ := h
    rfl
  have hwp : u.wpSel = s.wpSel := by
    obtain ⟨S, pulse, k, hk, rfl⟩ := h
    rfl
  have hreports := h.withFdc (update := (reports · .wpErr)) (reports_onChain · .wpErr)
  unfold afterSettle at hgoes ⊢
  rw [hcmd, hwp] at hgoes
  cases hk : s.fdc.cmd <;> rw [hk] at hgoes
  case readSector | readAddress => exact searchBegins_of_onChain h hgoes
  case writeSector => exact ite_of_branches (completesAs_of_onChain hreports) (searchBegins_of_onChain h) hgoes
  case writeTrack => exact ite_of_branches (completesAs_of_onChain hreports) (writeTrackAsks_of_onChain h) hgoes
  case readTrack => exact readTrackBegins_of_onChain h hgoes
  all_goals exact hgoes

/-- The handler of Read Track's byte slot, in the words of the statements (R280). -/
theorem onReadingTrack_eq (s : State) : onReadingTrack s =
    (let u := s.withFdc { delivered s.afterRead.fdc s.logicalByte.1 with slot := s.fdc.slot + 1 }
    if s.fdc.slot + 1 < slotsPerRev s.cfg s.fdc.dd then .goto .readingTrack s.byteDelay u else .goto .nmi 0 u) := by
  have hslot : (delivered s.afterRead.fdc s.logicalByte.1).slot = s.fdc.slot := by
    rw [delivered_shape]
    rfl
  unfold onReadingTrack
  rw [State.deliver_eq, ← hslot]
  rfl

theorem startsTypeII_of_onChain {s u t : State} (h : OnChain s u) (hgoes : startsTypeII u t) : startsTypeII s t := by
  have hsettle := afterSettle_of_onChain (t := t) h
  obtain ⟨S, pulse, k, hk, rfl⟩ := id h
  exact ite_of_branches (ite_of_branches (waitsAfter_of_onChain h) hsettle) (completesAs_of_onChain h) hgoes

section TypeII
variable {s : State} (hl : legalConfig s.cfg = true) (hbusy : s.fdc.busy = true) (n : Nat)
include hl hbusy

/-- R231: the ID search. -/
theorem finish_searchStart (hcmd : s.fdc.cmd.searches = true) : searchBegins s (finish (n + 1) (.goto .searchStart 0 s)) := by
  have hrun : runHandler (s.entering .searchStart) = onSearchStart (s.entering .searchStart) := onlyFor_of_eq_true hcmd _ _
  refine searchBegins_of_onChain (s.onChain_entering .searchStart) ?_
  rw [finish_enters _ _ hbusy, hrun]
  exact finish_waits _ _ (State.byteDelay_pos (s := s.entering .searchStart) hl) _

/-- R280: a byte slot of Read Track. -/
theorem finish_onReadingTrack (hcmd : s.fdc.cmd = .readTrack) : readSlotGoes s (finish (n + 1) (onReadingTrack s)) := by
  have hshape := delivered_shape s.afterRead.fdc s.logicalByte.1
  rw [onReadingTrack_eq]
  unfold readSlotGoes
  dsimp only
  split_ifs
  · exact finish_waits _ _ (State.byteDelay_pos hl) _
  · refine finish_completes n (s := s.withFdc _) ?_ ?_ <;> rw [State.withFdc_fdc, hshape]
    · exact hbusy
    · exact fun hforce => CmdKind.noConfusion (hcmd.symm.trans hforce)

theorem finish_readingTrack (hcmd : s.fdc.cmd = .readTrack) :
    readSlotGoes s (finish (n + 2) (.goto .readingTrack 0 s)) := by
  have hrun : runHandler (s.entering .readingTrack) = onReadingTrack (s.entering .readingTrack) :=
    onlyFor_of_eq_true (beq_iff_eq.2 hcmd) _ _
  refine readSlotGoes_of_onChain (s.onChain_entering .readingTrack) ?_
  rw [finish_enters _ _ hbusy, hrun]
  exact finish_onReadingTrack (s := s.entering .readingTrack) hl hbusy n hcmd

/-- R279 for Read Track. -/
theorem finish_seekingIndexHole (hcmd : s.fdc.cmd = .readTrack) :
    readTrackBegins s (finish (n + 3) (.goto .seekingIndexHole 0 s)) := by
  have hrun : runHandler (s.entering .seekingIndexHole) = onSeekingIndexHole (s.entering .seekingIndexHole) :=
    onlyFor_of_eq_true (by rw [Bool.or_eq_true, beq_iff_eq, beq_iff_eq]; exact .inl hcmd) _ _
  refine readTrackBegins_of_onChain (s.onChain_entering .seekingIndexHole) ?_
  rw [finish_enters _ _ hbusy, hrun]
  unfold readTrackBegins onSeekingIndexHole
  rw [if_pos (show (s.entering .seekingIndexHole).fdc.cmd = .readTrack from hcmd)]
  dsimp only
  split_ifs with hindex
  · rw [hindex]
    refine finish_readingTrack (s := (s.entering .seekingIndexHole).withFdc _) ?_ ?_ n ?_ <;> assumption
  · exact finish_waits _ _ (Nat.pos_of_ne_zero hindex) _

/-- R286 on entry. -/
theorem finish_writeTrackDrq (hcmd : s.fdc.cmd = .writeTrack) (hcount : s.fdc.count = 0) :
    writeTrackAsks s (finish (n + 1) (.goto .writeTrackDrq 0 s)) := by
  have hrun : runHandler (s.entering .writeTrackDrq) = onWriteTrackDrq (s.entering .writeTrackDrq) :=
    onlyFor_of_eq_true (beq_iff_eq.2 hcmd) _ _
  refine writeTrackAsks_of_onChain (s.onChain_entering .writeTrackDrq) ?_
  rw [finish_enters _ _ hbusy, hrun, onWriteTrackDrq,
    if_pos (show (s.entering .writeTrackDrq).fdc.count = 0 from hcount)]
  exact finish_waits _ _ (State.writeTrackWindow_pos (s := s.entering .writeTrackDrq) hl) _

/-- R230: the write-protect check. -/
theorem finish_onCheckWriteProtect (hcmd : s.fdc.cmd = .writeSector ∨ s.fdc.cmd = .writeTrack) (hcount : s.fdc.count = 0) :
    afterSettle s (finish (n + 1) (onCheckWriteProtect s)) := by
  have hkeeps := reports_keeps s.cfg s.fdc .wpErr
  have hrefused : s.fdc.cmd ≠ .forceInterrupt →
      completesAs (s.withFdc (reports s.fdc .wpErr)) (finish (n + 1) (.goto .nmi 0 (s.withFdc (reports s.fdc .wpErr)))) :=
    fun hne => finish_completes n (s := s.withFdc _) (hkeeps.busy hbusy) (hkeeps.cmd ▸ hne)
  unfold afterSettle onCheckWriteProtect
  rw [State.setError_eq]
  rcases hcmd with hkind | hkind <;> rw [hkind] at hrefused ⊢ <;> dsimp only <;> split_ifs
  · exact hrefused (by decide)
  · exact finish_searchStart hl hbusy n (by rw [hkind]; rfl)
  · exact hrefused (by decide)
  · exact finish_writeTrackDrq hl hbusy n hkind hcount

theorem finish_checkWriteProtect (hcmd : s.fdc.cmd = .writeSector ∨ s.fdc.cmd = .writeTrack) (hcount : s.fdc.count = 0) :
    afterSettle s (finish (n + 2) (.goto .checkWriteProtect 0 s)) := by
  have hrun : runHandler (s.entering .checkWriteProtect) = onCheckWriteProtect (s.entering .checkWriteProtect) :=
    onlyFor_of_eq_true (by rw [Bool.or_eq_true, beq_iff_eq, beq_iff_eq]; exact hcmd) _ _
  refine afterSettle_of_onChain (s.onChain_entering .checkWriteProtect) ?_
  rw [finish_enters _ _ hbusy, hrun]
  exact finish_onCheckWriteProtect (s := s.entering .checkWriteProtect) hl hbusy n hcmd hcount

/-- R230 from Delay on. -/
theorem finish_onDelay (hcmd : s.fdc.cmd.type = .typeII ∨ s.fdc.cmd.type = .typeIII) (hcount : s.fdc.count = 0) :
    afterSettle s (finish (n + 3) (onDelay s)) := by
  unfold onDelay
  cases hkind : s.fdc.cmd <;> rw [hkind] at hcmd
  case readSector | readAddress =>
    rw [afterSettle, hkind]
    exact finish_searchStart hl hbusy (n + 2) (by rw [hkind]; rfl)
  case writeSector => exact finish_checkWriteProtect hl hbusy (n + 1) (.inl hkind) hcount
  case writeTrack => exact finish_checkWriteProtect hl hbusy (n + 1) (.inr hkind) hcount
  case readTrack =>
    rw [afterSettle, hkind]
    exact finish_seekingIndexHole hl hbusy n hkind
  all_goals simp [CmdKind.type] at hcmd

theorem finish_delay (hcmd : s.fdc.cmd.type = .typeII ∨ s.fdc.cmd.type = .typeIII) (hcount : s.fdc.count = 0) :
    afterSettle s (finish (n + 4) (.goto .delay 0 s)) := by
  have hrun : runHandler (s.entering .delay) = onDelay (s.entering .delay) := rfl
  refine afterSettle_of_onChain (s.onChain_entering .delay) ?_
  rw [finish_enters _ _ hbusy, hrun]
  exact finish_onDelay (s := s.entering .delay) hl hbusy n hcmd hcount

/-- R230: what Prepare of a Type II or III command goes on to. -/
theorem finish_startTypeII (hcmd : s.fdc.cmd.type = .typeII ∨ s.fdc.cmd.type = .typeIII) (hcount : s.fdc.count = 0) :
    startsTypeII s (finish (n + 4)
      (if s.ready then .goto .delay (if s.flagE then s.settleDelay else 0) s else .goto .nmi 0 s)) := by
  unfold startsTypeII State.flagE
  split_ifs
  · exact finish_waits _ _ (State.settleDelay_pos hl) _
  · exact finish_delay hl hbusy n hcmd hcount
  · refine finish_completes _ hbusy fun hforce => ?_
    rw [hforce] at hcmd
    simp [CmdKind.type] at hcmd

end TypeII

end Sys2Proof.Machine
end

section
/-! PROOFS. The commands the Host writes: what an accepted one begins with, and how it starts (R171, R201, R230). -/

namespace Sys2Proof.Machine

/-! ### The command port (R112, R171) -/

theorem exec_wrCommand {s : State} (h : s.fault = none) (b : Byte) :
    exec (.wrCommand b) s = .next (({ s with inUnit := true } : State).writeCommand b) := guarded_next h _

/-- A command is the write of its byte to the command port (R112). -/
theorem exec_of_commandByte {i : Instr} {b : Byte} (h : i.commandByte = some b) (s : State) :
    exec i s = exec (.wrCommand b) s := by
  cases i <;> cases h <;> rfl

theorem State.writeCommand_accepted {s : State} {b : Byte} (h : s.fdc.busy = false ∨ kindOf b = .forceInterrupt) :
    s.writeCommand b = (s.acceptCommand b).startCommand (kindOf b) s.fdc.cmd := by
  refine if_neg fun ⟨hbusy, hkind⟩ => ?_
  rcases h with hidle | hforce
  · exact Bool.false_ne_true (hidle.symm.trans hbusy)
  · exact hkind hforce

/-- While busy a command other than Force Interrupt is dropped (R98). -/
theorem State.writeCommand_dropped {s : State} {b : Byte} (hbusy : s.fdc.busy = true) (hkind : kindOf b ≠ .forceInterrupt) :
    s.writeCommand b = s := if_pos ⟨hbusy, hkind⟩

/-! ### What an accepted command begins with (R201, R230) -/

theorem Fdc.prepareTypeI_onChain (f : Fdc) (S : OpStatus) (pulse : Option Nat) :
    Fdc.prepareTypeI { f with op := S, cmdPulse := pulse } = { f.prepareTypeI with op := S, cmdPulse := pulse } := by
  cases hcmd : f.cmd <;> simp only [Fdc.prepareTypeI, hcmd]

/-- The controller as a Type I command's Prepare leaves it (R201). -/
def begunTypeI (f : Fdc) (b : Byte) (k : CmdKind) (h : Bool) : Fdc :=
  Fdc.prepareTypeI { begun f b k with statusMode := .typeI, headLoaded := h, stepsDone := 0 }

/-- The controller as a Type II or III command's Prepare leaves it (R230). -/
def begunTypeII (f : Fdc) (b : Byte) (k : CmdKind) : Fdc :=
  { begun f b k with statusMode := .typeII_III, headLoaded := true, count := 0 }

theorem State.startCommand_typeII {k : CmdKind} (h : k.type = .typeII ∨ k.type = .typeIII) (s : State) (prevCmd : CmdKind) :
    s.startCommand k prevCmd = (onPrepareTypeII (s.withFdc { s.fdc with op := .prepare })).run := by
  rcases h with h | h <;> simp only [State.startCommand, h]

section Begin
variable {s : State} {b : Byte} (hidle : s.fdc.busy = false) (hl : legalConfig s.cfg = true)
include hidle hl

theorem State.writeCommand_typeI (htype : (kindOf b).type = .typeI) :
    typeIGoes (accepted s (begunTypeI s.fdc b (kindOf b) (b.getLsbD 3)))
      (({ s with inUnit := true } : State).writeCommand b) := by
  rw [State.writeCommand_accepted (s := { s with inUnit := true }) (.inl hidle), State.acceptCommand_eq,
    State.startCommand, htype]
  dsimp only
  generalize hu : State.withFdc _ _ = u
  have hbegun : OnChain
      (accepted s { begun s.fdc b (kindOf b) with statusMode := .typeI, headLoaded := b.getLsbD 3, stepsDone := 0 })
      (u.withFdc u.fdc.beginTypeI) := by
    rw [← hu]
    exact ⟨.prepare, s.fdc.cmdPulse, s.clk.nextHandle, Nat.le_refl _, rfl⟩
  have hkeeps := Fdc.prepareTypeI_keeps u.cfg u.fdc.beginTypeI
  refine typeIGoes_of_onChain (hbegun.withFdc Fdc.prepareTypeI_onChain)
    (finish_typeIStep (s := u.withFdc u.fdc.beginTypeI.prepareTypeI) ?_ (hkeeps.busy rfl) ?_ 13)
  · rw [← hu]
    exact hl
  · rw [State.withFdc_fdc, hkeeps.cmd, ← hu]
    exact decide_eq_true htype

theorem State.writeCommand_typeII (htype : (kindOf b).type = .typeII ∨ (kindOf b).type = .typeIII) :
    startsTypeII (accepted s (begunTypeII s.fdc b (kindOf b))) (({ s with inUnit := true } : State).writeCommand b) := by
  rw [State.writeCommand_accepted (s := { s with inUnit := true }) (.inl hidle), State.acceptCommand_eq,
    State.startCommand_typeII htype]
  generalize hu : State.withFdc _ _ = u
  have hbegun : OnChain (accepted s (begunTypeII s.fdc b (kindOf b))) (u.withFdc u.fdc.beginTypeII) := by
    rw [← hu]
    exact ⟨.prepare, s.fdc.cmdPulse, s.clk.nextHandle, Nat.le_refl _, rfl⟩
  refine startsTypeII_of_onChain hbegun (finish_startTypeII (s := u.withFdc u.fdc.beginTypeII) ?_ rfl 12 ?_ rfl)
  · rw [← hu]
    exact hl
  · rw [← hu]
    exact htype

end Begin

/-! ### The commands (R202 to R206, R240, R250, R270, R278, R285) -/

theorem byteRestore_kind : ∀ h v r, kindOf (byteRestore h v r) = .restore ∧ (byteRestore h v r).getLsbD 3 = h := by decide
theorem byteSeek_kind : ∀ h v r, kindOf (byteSeek h v r) = .seek ∧ (byteSeek h v r).getLsbD 3 = h := by decide
theorem byteStep_kind : ∀ u h v r, kindOf (byteStep u h v r) = .step ∧ (byteStep u h v r).getLsbD 3 = h := by decide
theorem byteStepIn_kind : ∀ u h v r, kindOf (byteStepIn u h v r) = .stepIn ∧ (byteStepIn u h v r).getLsbD 3 = h := by
  decide
theorem byteStepOut_kind : ∀ u h v r, kindOf (byteStepOut u h v r) = .stepOut ∧ (byteStepOut u h v r).getLsbD 3 = h := by
  decide
theorem byteReadSector_kind : ∀ m s e c x, kindOf (byteReadSector m s e c x) = .readSector := by decide
theorem byteWriteSector_kind : ∀ m s e c a0, kindOf (byteWriteSector m s e c a0) = .writeSector := by decide
theorem byteReadAddress_kind : ∀ x3 e x1 x0, kindOf (byteReadAddress x3 e x1 x0) = .readAddress := by decide
theorem byteReadTrack_kind : ∀ x3 e x1 x0, kindOf (byteReadTrack x3 e x1 x0) = .readTrack := by decide
theorem byteWriteTrack_kind : ∀ x3 e x1 x0, kindOf (byteWriteTrack x3 e x1 x0) = .writeTrack := by decide

section Commands
variable {s : State} {i : Instr} {b : Byte} {k : CmdKind} (hi : i.commandByte = some b) (hfault : s.fault = none)
  (hidle : s.fdc.busy = false) (hl : legalConfig s.cfg = true)
include hi hfault hidle hl

/-- An accepted Type I command begins and makes the first test of its loop (R171, R201). -/
theorem exec_typeI {h : Bool} (hkind : kindOf b = k ∧ b.getLsbD 3 = h) (htype : k.type = .typeI) :
    ∃ t, exec i s = .next t ∧ typeIGoes (accepted s (begunTypeI s.fdc b k h)) t := by
  obtain ⟨rfl, rfl⟩ := hkind
  exact ⟨_, (exec_of_commandByte hi s).trans (exec_wrCommand hfault b), State.writeCommand_typeI hidle hl htype⟩

/-- An accepted Type II or III command begins and starts (R171, R230). -/
theorem exec_typeII (hkind : kindOf b = k) (htype : k.type = .typeII ∨ k.type = .typeIII) :
    ∃ t, exec i s = .next t ∧ startsTypeII (accepted s (begunTypeII s.fdc b k)) t := by
  subst hkind
  exact ⟨_, (exec_of_commandByte hi s).trans (exec_wrCommand hfault b), State.writeCommand_typeII hidle hl htype⟩

end Commands

/-- Settles O15: Prepare's chain runs into the first test of the command's loop. -/
theorem restoreAndSeek : Obligations.RestoreAndSeek := by
  unfold Obligations.RestoreAndSeek
  intro h v r s hfault hidle hl
  exact ⟨exec_typeI rfl hfault hidle hl (byteRestore_kind h v r) rfl,
    exec_typeI rfl hfault hidle hl (byteSeek_kind h v r) rfl⟩

/-- Settles O16: Prepare's chain runs into the one step. -/
theorem stepCommands : Obligations.StepCommands := by
  unfold Obligations.StepCommands
  intro u h v r s hfault hidle hl
  exact ⟨exec_typeI rfl hfault hidle hl (byteStep_kind u h v r) rfl,
    exec_typeI rfl hfault hidle hl (byteStepIn_kind u h v r) rfl,
    exec_typeI rfl hfault hidle hl (byteStepOut_kind u h v r) rfl⟩

/-- Settles O19: Prepare's chain runs into the settle delay, the search, or the completion. -/
theorem sectorCommands : Obligations.SectorCommands := by
  unfold Obligations.SectorCommands
  intro m sd e c x s hfault hidle hl
  exact ⟨exec_typeII rfl hfault hidle hl (byteReadSector_kind m sd e c x) (.inl rfl),
    exec_typeII rfl hfault hidle hl (byteWriteSector_kind m sd e c x) (.inl rfl)⟩

/-- Settles O20: Prepare's chain runs into the settle delay, the search, the first slot of the track, or the completion. -/
theorem trackCommands : Obligations.TrackCommands := by
  unfold Obligations.TrackCommands
  intro x3 e x1 x0 s hfault hidle hl
  exact ⟨exec_typeII rfl hfault hidle hl (byteReadAddress_kind x3 e x1 x0) (.inr rfl),
    exec_typeII rfl hfault hidle hl (byteReadTrack_kind x3 e x1 x0) (.inr rfl),
    exec_typeII rfl hfault hidle hl (byteWriteTrack_kind x3 e x1 x0) (.inr rfl)⟩

end Sys2Proof.Machine
end

section
/-! PROOFS. What every outcome of a command's start leaves alone: CR, the command's kind, the tick, the fault mark and the Force
Interrupt arms; and the command port (R98, R171, R300, R305). -/

namespace Sys2Proof.Machine

/-! ### The command in progress -/

/-- The parameters, the command as it was written, the tick and the fault mark. -/
def State.command (s : State) : Config × Byte × CmdKind × Nat × Option FaultReason :=
  (s.cfg, s.fdc.cr, s.fdc.cmd, s.clk.ticks, s.fault)

/-- The conditions Force Interrupt arms (R63). -/
def State.arms (s : State) : Bool × Bool × Option Nat := (s.fdc.armI0, s.fdc.armI1, s.fdc.indexPulse)

/-- The command and the arms are as before. -/
def SameCommand (s t : State) : Prop := t.command = s.command ∧ t.arms = s.arms

theorem SameCommand.trans {s u t : State} (h₁ : SameCommand s u) (h₂ : SameCommand u t) : SameCommand s t :=
  ⟨h₂.1.trans h₁.1, h₂.2.trans h₁.2⟩

theorem sameCommand_of_waitsAfter {s t : State} {S : OpStatus} {d : Nat} (h : waitsAfter s S d t) : SameCommand s t := by
  obtain ⟨_, _, -, -, rfl⟩ := h
  exact ⟨rfl, rfl⟩

theorem sameCommand_of_completesAs {s t : State} (h : completesAs s t) : SameCommand s t := by
  obtain ⟨_, -, rfl⟩ := h
  exact ⟨rfl, rfl⟩

theorem sameCommand_reports (s : State) (e : ErrorFlag) : SameCommand s (s.withFdc (reports s.fdc e)) := by
  rw [reports_shape]
  exact ⟨rfl, rfl⟩

/-! ### Type I (R202 to R207) -/

theorem sameCommand_of_endsTypeI {s t : State} (h : endsTypeI s t) : SameCommand s t := by
  unfold endsTypeI at h
  split_ifs at h
  · exact sameCommand_of_waitsAfter h
  · exact sameCommand_of_completesAs h

theorem sameCommand_of_restoreGoes {s t : State} (h : restoreGoes s t) : SameCommand s t := by
  unfold restoreGoes at h
  split_ifs at h
  · exact (sameCommand_of_endsTypeI h :)
  · exact (sameCommand_reports s .seekErr).trans (sameCommand_of_completesAs h)
  · exact (sameCommand_of_waitsAfter h :)

theorem sameCommand_of_seekGoes {s t : State} (h : seekGoes s t) : SameCommand s t := by
  unfold seekGoes at h
  split_ifs at h
  · exact sameCommand_of_endsTypeI h
  · exact (sameCommand_of_waitsAfter h :)
  · exact (sameCommand_of_endsTypeI h :)
  · exact (sameCommand_of_waitsAfter h :)

theorem sameCommand_of_stepGoes {s t : State} (h : stepGoes s t) : SameCommand s t := by
  unfold stepGoes at h
  split_ifs at h
  · exact sameCommand_of_endsTypeI h
  · exact (sameCommand_of_endsTypeI h :)
  · exact (sameCommand_of_waitsAfter h :)
  · exact (sameCommand_of_waitsAfter h :)

theorem sameCommand_of_typeIGoes {s t : State} (h : typeIGoes s t) : SameCommand s t := by
  unfold typeIGoes at h
  split at h
  · exact sameCommand_of_restoreGoes h
  · exact sameCommand_of_seekGoes h
  · exact sameCommand_of_stepGoes h
  · exact sameCommand_of_stepGoes h
  · exact sameCommand_of_stepGoes h
  · exact h.elim

/-! ### Types II and III (R230, R231, R279, R280, R286) -/

theorem sameCommand_of_searchBegins {s t : State} (h : searchBegins s t) : SameCommand s t :=
  (sameCommand_of_waitsAfter h :)

theorem sameCommand_of_readSlotGoes {s t : State} (h : readSlotGoes s t) : SameCommand s t := by
  have hslot : SameCommand s
      (s.withFdc { delivered s.afterRead.fdc s.logicalByte.1 with slot := s.fdc.slot + 1 }) := by
    rw [delivered_shape]
    exact ⟨rfl, rfl⟩
  unfold readSlotGoes at h
  dsimp only at h
  split_ifs at h
  · exact hslot.trans (sameCommand_of_waitsAfter h)
  · exact hslot.trans (sameCommand_of_completesAs h)

theorem sameCommand_of_readTrackBegins {s t : State} (h : readTrackBegins s t) : SameCommand s t := by
  unfold readTrackBegins at h
  dsimp only at h
  split_ifs at h
  · exact (sameCommand_of_readSlotGoes h :)
  · exact (sameCommand_of_waitsAfter h :)

theorem sameCommand_of_writeTrackAsks {s t : State} (h : writeTrackAsks s t) : SameCommand s t :=
  (sameCommand_of_waitsAfter h :)

theorem sameCommand_of_afterSettle {s t : State} (h : afterSettle s t) : SameCommand s t := by
  unfold afterSettle at h
  split at h
  · exact sameCommand_of_searchBegins h
  · exact sameCommand_of_searchBegins h
  · split_ifs at h
    · exact (sameCommand_reports s .wpErr).trans (sameCommand_of_completesAs h)
    · exact sameCommand_of_searchBegins h
  · split_ifs at h
    · exact (sameCommand_reports s .wpErr).trans (sameCommand_of_completesAs h)
    · exact sameCommand_of_writeTrackAsks h
  · exact sameCommand_of_readTrackBegins h
  · exact h.elim

theorem sameCommand_of_startsTypeII {s t : State} (h : startsTypeII s t) : SameCommand s t := by
  unfold startsTypeII at h
  split_ifs at h
  · exact sameCommand_of_waitsAfter h
  · exact sameCommand_of_afterSettle h
  · exact sameCommand_of_completesAs h

/-! ### Force Interrupt (R300, R301) -/

theorem State.terminate_command (s : State) (prevCmd : CmdKind) : (s.terminate prevCmd).command = s.command := by
  unfold State.terminate
  rw [State.expireOpt_eq]
  dsimp only
  split
  · rw [State.wtAbort_shape]
    rfl
  · rfl

theorem State.armIndex_command {s : State} (hl : legalConfig s.cfg = true) : s.armIndex.command = s.command := by
  rw [State.armIndex_eq hl]
  rfl

/-- Force Interrupt raises no Fatal and leaves the command register and the tick alone. -/
theorem State.forceInterrupt_command {s : State} (hl : legalConfig s.cfg = true) (prevCmd : CmdKind) :
    (s.forceInterrupt prevCmd).command = s.command := by
  have hstop : (if s.fdc.busy then s.terminate prevCmd else s.withFdc { s.fdc with statusMode := .typeI }).command =
      s.command := by
    split_ifs
    · exact s.terminate_command prevCmd
    · rfl
  have hlatch : ∀ (c : Bool) (u : State), (if c then u.latchIntrq else u).command = u.command := by
    intro c u
    split_ifs <;> rfl
  have harm : ∀ (c : Bool) (u : State), u.command = s.command → (if c then u.armIndex else u).command = s.command := by
    intro c u hu
    split_ifs
    · have hcfg : u.cfg = s.cfg := congrArg Prod.fst hu
      rw [State.armIndex_command (hcfg ▸ hl), hu]
    · exact hu
  exact harm _ _ ((hlatch _ _).trans hstop)

/-! ### The command port -/

/-- An accepted command begins with the arms gone (R305), and its start keeps them so. -/
theorem State.writeCommand_begins {s : State} {b : Byte} (hidle : s.fdc.busy = false) (hl : legalConfig s.cfg = true)
    (hkind : kindOf b ≠ .forceInterrupt) :
    (({ s with inUnit := true } : State).writeCommand b).command = (s.cfg, b, kindOf b, s.clk.ticks, s.fault) ∧
      (({ s with inUnit := true } : State).writeCommand b).arms = (false, false, none) := by
  have htypeI : SameCommand (accepted s (begun s.fdc b (kindOf b)))
      (accepted s (begunTypeI s.fdc b (kindOf b) (b.getLsbD 3))) := by
    unfold begunTypeI
    cases hk : kindOf b <;> exact ⟨rfl, rfl⟩
  have hstart : SameCommand (accepted s (begun s.fdc b (kindOf b))) (({ s with inUnit := true } : State).writeCommand b) := by
    cases htype : (kindOf b).type with
    | typeI => exact htypeI.trans (sameCommand_of_typeIGoes (State.writeCommand_typeI hidle hl htype))
    | typeII => exact (sameCommand_of_startsTypeII (State.writeCommand_typeII hidle hl (.inl htype)) :)
    | typeIII => exact (sameCommand_of_startsTypeII (State.writeCommand_typeII hidle hl (.inr htype)) :)
    | typeIV =>
      refine absurd ?_ hkind
      revert htype
      cases kindOf b <;> simp [CmdKind.type]
  exact hstart

theorem State.writeCommand_forces {s : State} {b : Byte} (hl : legalConfig s.cfg = true) (hkind : kindOf b = .forceInterrupt) :
    (({ s with inUnit := true } : State).writeCommand b).command = (s.cfg, b, kindOf b, s.clk.ticks, s.fault) := by
  rw [State.writeCommand_accepted (.inr hkind), hkind, State.startCommand, CmdKind.type]
  dsimp only
  rw [State.forceInterrupt_command (by rw [State.acceptCommand_cfg]; exact hl), State.acceptCommand_eq, ← hkind]
  rfl

/-- Settles O13: every outcome of an accepted command leaves CR, the kind, the tick and the arms alone, and so, but for the
arms, does Force Interrupt; a dropped command leaves everything. -/
theorem commandWrite : Obligations.CommandWrite := by
  unfold Obligations.CommandWrite
  intro b s
  have hbyte := commandByte_decodeCommand b
  obtain ⟨-, hencode, -⟩ := Instr.commandByte_spec hbyte s.cfg.portBase
  refine ⟨(exec_of_commandByte hbyte s).symm, hencode, fun hfault hl haccept => ?_, fun hfault hbusy hkind => ?_⟩
  · have hbegins := fun hkind => State.writeCommand_begins (b := b) (haccept.resolve_right hkind) hl hkind
    have hcommand : (({ s with inUnit := true } : State).writeCommand b).command =
        (s.cfg, b, kindOf b, s.clk.ticks, s.fault) := by
      by_cases hkind : kindOf b = .forceInterrupt
      · exact State.writeCommand_forces hl hkind
      · exact (hbegins hkind).1
    simp only [State.command, State.arms, Prod.mk.injEq] at hcommand hbegins
    obtain ⟨-, hcr, hcmd, hticks, hmark⟩ := hcommand
    exact ⟨_, exec_wrCommand hfault b, hcr, hcmd, hticks, hmark.trans hfault, fun hkind => (hbegins hkind).2⟩
  · rw [exec_wrCommand hfault, State.writeCommand_dropped (s := { s with inUnit := true }) hbusy hkind]

end Sys2Proof.Machine
end

section
/-! PROOFS. The loop of a running Type I command, its verify, and the ID field of a verify, Read Sector or Write Sector
(R202 to R209, R234, R235). -/

namespace Sys2Proof.Machine

/-! ### The ID comparison (R209, R235) -/

/-- The ID asked for: a verify asks for the track (R209), a sector command for its sector (R235). -/
def idAsked (f : Fdc) : Prop := if f.cmd.isTypeI then f.idBuf[0] = f.tr else idWanted f

/-- R209, R235, R118: what follows the ID asked for with a good CRC, by command. -/
structure IdAccepted (s t : State) : Prop where
  verify : s.fdc.cmd.isTypeI = true → completesAs s t
  read : s.fdc.cmd = .readSector →
    waitsAfter (s.withFdc { s.fdc with secLen := 128 <<< (s.fdc.idBuf[3].toNat % 4), count := 0 })
      .seekingDam (byteTicks s.cfg s.fdc.dd) t
  write : s.fdc.cmd = .writeSector →
    waitsAfter (s.withFdc { s.fdc with secLen := 128 <<< (s.fdc.idBuf[3].toNat % 4), count := 0 })
      .writeGap (byteTicks s.cfg s.fdc.dd) t

/-- R209, R235: the comparison of the ID in the buffer. -/
structure IdCompares (s t : State) : Prop where
  other : ¬ idAsked s.fdc → waitsAfter s .seekingIdam (byteTicks s.cfg s.fdc.dd) t
  badCrc : idAsked s.fdc → ¬ idGood s.fdc →
    waitsAfter (s.withFdc { s.fdc with crcSeen := true }) .seekingIdam (byteTicks s.cfg s.fdc.dd) t
  accepted : idAsked s.fdc → idGood s.fdc → IdAccepted s t

/-- R234: one byte of the ID field. -/
structure IdByteGoes (s t : State) : Prop where
  more : s.fdc.idIdx < 5 → waitsAfter s.readIdByte .readingAddressData (byteTicks s.cfg s.fdc.dd) t
  last : s.fdc.idIdx = 5 → IdCompares s.readIdByte t

theorem idAsked_of_isTypeI {f : Fdc} (h : f.cmd.isTypeI = true) : idAsked f ↔ f.idBuf[0] = f.tr := by
  rw [idAsked, if_pos h]

theorem idAsked_of_not_isTypeI {f : Fdc} (h : ¬ f.cmd.isTypeI = true) : idAsked f ↔ idWanted f := by
  rw [idAsked, if_neg h]

theorem State.idCrcOk_iff {s : State} : s.idCrcOk = true ↔ idGood s.fdc := beq_iff_eq

theorem State.idMatches_iff {s : State} : s.idMatches = true ↔ idWanted s.fdc := by
  have hside : (!s.flagC || s.fdc.idBuf[1] == byteOfBool s.flagS) = true ↔
      (s.flagC = true → s.fdc.idBuf[1] = byteOfBool s.flagS) := by
    cases s.flagC <;> simp
  unfold State.idMatches
  rw [Bool.and_eq_true, Bool.and_eq_true, hside, beq_iff_eq, beq_iff_eq, and_assoc]
  rfl

theorem OnChain.readIdByte {s u : State} (h : OnChain s u) : OnChain s.readIdByte u.readIdByte := by
  obtain ⟨S, pulse, k, hk, rfl⟩ := h
  exact ⟨S, pulse, k, hk, rfl⟩

theorem IdAccepted.of_onChain {s u t : State} (h : OnChain s u) (hgoes : IdAccepted u t) : IdAccepted s t := by
  obtain ⟨hverify, hread, hwrite⟩ := hgoes
  obtain ⟨S, pulse, k, hk, rfl⟩ := id h
  exact ⟨fun hcmd => completesAs_of_onChain h (hverify hcmd),
    fun hcmd => waitsAfter_of_onChain ⟨S, pulse, k, hk, rfl⟩ (hread hcmd),
    fun hcmd => waitsAfter_of_onChain ⟨S, pulse, k, hk, rfl⟩ (hwrite hcmd)⟩

theorem IdCompares.of_onChain {s u t : State} (h : OnChain s u) (hgoes : IdCompares u t) : IdCompares s t := by
  obtain ⟨hother, hbad, hgood⟩ := hgoes
  have haccepted := IdAccepted.of_onChain (t := t) h
  obtain ⟨S, pulse, k, hk, rfl⟩ := id h
  exact ⟨fun hasked => waitsAfter_of_onChain h (hother hasked),
    fun hasked hcrc => waitsAfter_of_onChain ⟨S, pulse, k, hk, rfl⟩ (hbad hasked hcrc),
    fun hasked hcrc => haccepted (hgood hasked hcrc)⟩

theorem IdByteGoes.of_onChain {s u t : State} (h : OnChain s u) (hgoes : IdByteGoes u t) : IdByteGoes s t := by
  obtain ⟨hmore, hlast⟩ := hgoes
  have hcompares := IdCompares.of_onChain (t := t) h.readIdByte
  have hwaits := fun d => waitsAfter_of_onChain (S := .readingAddressData) (d := d) (t := t) h.readIdByte
  obtain ⟨S, pulse, k, hk, rfl⟩ := h
  exact ⟨fun hidx => hwaits _ (hmore hidx), fun hidx => hcompares (hlast hidx)⟩

/-! ### The handlers (R207, R209, R234) -/

theorem CmdKind.searches_of_isTypeI {k : CmdKind} (h : k.isTypeI = true) : k.searches = true := by
  rw [CmdKind.searches, h]
  rfl

theorem CmdKind.not_isTypeI_of_sector {k : CmdKind} (h : k = .readSector ∨ k = .writeSector) : ¬ k.isTypeI = true := by
  rcases h with rfl | rfl <;> decide

/-- The families that share the ID field's handler (R234). -/
theorem CmdKind.searches_of_readsId {k : CmdKind} (h : k.isTypeI = true ∨ k = .readSector ∨ k = .writeSector) :
    k.searches = true ∧ k ≠ .readAddress := by
  revert h
  cases k <;> decide

section Handlers
variable {s : State} (hl : legalConfig s.cfg = true) (hbusy : s.fdc.busy = true) (n : Nat)
include hl

/-- R235 for Read Sector and Write Sector. -/
theorem finish_idCompare (hcmd : s.fdc.cmd = .readSector ∨ s.fdc.cmd = .writeSector) :
    IdCompares s (finish n (idCompare s)) := by
  have htype := CmdKind.not_isTypeI_of_sector hcmd
  have hbyte : 0 < s.byteDelay := State.byteDelay_pos hl
  have hmatch : (!s.idMatches) = true ↔ ¬ idAsked s.fdc := by
    rw [idAsked_of_not_isTypeI htype, ← State.idMatches_iff, Bool.not_eq_true', Bool.not_eq_true]
  have hcrc : (!s.idCrcOk) = true ↔ ¬ idGood s.fdc := by
    rw [← State.idCrcOk_iff, Bool.not_eq_true', Bool.not_eq_true]
  unfold idCompare
  refine ⟨fun hother => ?_, fun hwanted hbad => ?_, fun hwanted hgood => ?_⟩
  · rw [if_pos (hmatch.2 hother)]
    exact finish_waits n _ hbyte _
  · rw [if_neg fun h => hmatch.1 h hwanted, if_pos (hcrc.2 hbad)]
    exact finish_waits n _ hbyte _
  · rw [if_neg fun h => hmatch.1 h hwanted, if_neg fun h => hcrc.1 h hgood]
    dsimp only
    split
    case h_1 hread =>
      exact ⟨fun h => absurd h htype, fun _ => finish_waits n _ hbyte _,
        fun hwrite => CmdKind.noConfusion (hread.symm.trans hwrite)⟩
    case h_2 hwrite =>
      exact ⟨fun h => absurd h htype, fun hread => CmdKind.noConfusion (hread.symm.trans hwrite),
        fun _ => finish_waits n _ hbyte _⟩
    case h_3 hread hwrite => exact (hcmd.elim hread hwrite).elim

include hbusy

/-- R207: the verify begins its search. -/
theorem finish_verifySettle (hcmd : s.fdc.cmd.isTypeI = true) :
    searchBegins s (finish (n + 2) (.goto .verifySettle 0 s)) := by
  have hrun : runHandler (s.entering .verifySettle) = .goto .searchStart 0 (s.entering .verifySettle) :=
    onlyFor_of_eq_true hcmd _ _
  refine searchBegins_of_onChain (s.onChain_entering .verifySettle) ?_
  rw [finish_enters _ _ hbusy, hrun]
  exact finish_searchStart (s := s.entering .verifySettle) hl hbusy n (CmdKind.searches_of_isTypeI hcmd)

theorem finish_onVerifyTrack (hcmd : s.fdc.cmd.isTypeI = true) : IdCompares s (finish (n + 1) (onVerifyTrack s)) := by
  have hbyte : 0 < s.byteDelay := State.byteDelay_pos hl
  have hsector := fun h => CmdKind.not_isTypeI_of_sector h hcmd
  have hcomplete := finish_completes n hbusy (CmdKind.ne_forceInterrupt_of_isTypeI hcmd)
  have hasked := idAsked_of_isTypeI hcmd
  unfold onVerifyTrack
  refine ⟨fun hother => ?_, fun htrack hbad => ?_, fun htrack hgood => ?_⟩
  · rw [if_pos (mt hasked.2 hother)]
    exact finish_waits _ _ hbyte _
  · rw [if_neg (not_not.2 (hasked.1 htrack)), if_neg (mt State.idCrcOk_iff.1 hbad)]
    exact finish_waits _ _ hbyte _
  · rw [if_neg (not_not.2 (hasked.1 htrack)), if_pos (State.idCrcOk_iff.2 hgood)]
    exact ⟨fun _ => hcomplete, fun hread => absurd (.inl hread) hsector, fun hwrite => absurd (.inr hwrite) hsector⟩

/-- R209: the comparison of a verify. -/
theorem finish_verifyTrack (hcmd : s.fdc.cmd.isTypeI = true) :
    IdCompares s (finish (n + 2) (.goto .verifyTrack 0 s)) := by
  have hrun : runHandler (s.entering .verifyTrack) = onVerifyTrack (s.entering .verifyTrack) :=
    onlyFor_of_eq_true hcmd _ _
  refine IdCompares.of_onChain (s.onChain_entering .verifyTrack) ?_
  rw [finish_enters _ _ hbusy, hrun]
  exact finish_onVerifyTrack (s := s.entering .verifyTrack) hl hbusy n hcmd

theorem finish_onReadingAddressData
    (hcmd : s.fdc.cmd.isTypeI = true ∨ s.fdc.cmd = .readSector ∨ s.fdc.cmd = .writeSector) :
    IdByteGoes s (finish (n + 2) (onReadingAddressData s)) := by
  have hidx : s.readIdByte.fdc.idIdx = s.fdc.idIdx + 1 := rfl
  unfold onReadingAddressData
  dsimp only
  rw [hidx]
  refine ⟨fun hmore => ?_, fun hlast => ?_⟩
  · rw [if_pos (Nat.succ_lt_succ hmore)]
    exact finish_waits _ _ (State.byteDelay_pos hl) _
  · rw [if_neg (by omega)]
    rcases hcmd with hverify | hsector
    · rw [if_pos (show s.readIdByte.fdc.cmd.type = .typeI from of_decide_eq_true hverify)]
      exact finish_verifyTrack (s := s.readIdByte) hl hbusy n hverify
    · have htype : ¬ s.readIdByte.fdc.cmd.type = .typeI := fun htype =>
        CmdKind.not_isTypeI_of_sector hsector (decide_eq_true htype)
      rw [if_neg htype]
      exact finish_idCompare (s := s.readIdByte) hl _ hsector

/-- R234: one byte of the ID field, with the comparison after the sixth. -/
theorem finish_readingAddressData
    (hcmd : s.fdc.cmd.isTypeI = true ∨ s.fdc.cmd = .readSector ∨ s.fdc.cmd = .writeSector) :
    IdByteGoes s (finish (n + 3) (.goto .readingAddressData 0 s)) := by
  obtain ⟨hsearches, hne⟩ := CmdKind.searches_of_readsId hcmd
  have hrun : runHandler (s.entering .readingAddressData) = onReadingAddressData (s.entering .readingAddressData) :=
    (if_neg hne).trans (onlyFor_of_eq_true hsearches _ _)
  refine IdByteGoes.of_onChain (s.onChain_entering .readingAddressData) ?_
  rw [finish_enters _ _ hbusy, hrun]
  exact finish_onReadingAddressData (s := s.entering .readingAddressData) hl hbusy n hcmd

end Handlers

/-! ### The handlers run from a GOTO (R147, R148) -/

/-- Settles O17: one test of the loop, read off by command. -/
theorem typeISteps : Obligations.TypeISteps := by
  unfold Obligations.TypeISteps
  intro s hfault hbusy hl hcmd
  have hgoes : typeIGoes s (s.goto .typeIStep 0) := finish_typeIStep hl hbusy hcmd 13
  unfold typeIGoes at hgoes
  refine ⟨_, exec_goto hfault _ _, fun hk => ?_, fun hk => ?_, ?_⟩
  · rwa [hk] at hgoes
  · rwa [hk] at hgoes
  · rintro (hk | hk | hk) <;> rwa [hk] at hgoes

/-- Settles O18: the end of the loop, the start of the search, and the comparison of the ID with TR. -/
theorem verifyPhase : Obligations.VerifyPhase := by
  unfold Obligations.VerifyPhase
  intro s hfault hbusy hl hcmd
  obtain ⟨hother, hbad, hgood⟩ : IdCompares s (s.goto .verifyTrack 0) := finish_verifyTrack hl hbusy 14 hcmd
  rw [idAsked_of_isTypeI hcmd] at hother hbad hgood
  exact ⟨⟨_, exec_goto hfault _ _, finish_checkVerify hl hbusy hcmd 14⟩,
    ⟨_, exec_goto hfault _ _, finish_verifySettle hl hbusy 14 hcmd⟩,
    ⟨_, exec_goto hfault _ _, hother, hbad, fun htrack hcrc => (hgood htrack hcrc).verify hcmd⟩⟩

/-- Settles O24: the byte enters the ID buffer, and after the sixth the ID is compared with the one asked for. -/
theorem readingId : Obligations.ReadingId := by
  unfold Obligations.ReadingId
  intro s hfault hbusy hl _ hcmd
  obtain ⟨hmore, hlast⟩ : IdByteGoes s (s.goto .readingAddressData 0) := finish_readingAddressData hl hbusy 13 hcmd
  have haccepted hidx hwanted hcrc := (hlast hidx).accepted hwanted hcrc
  exact ⟨_, exec_goto hfault _ _, hmore, fun hidx => (hlast hidx).other, fun hidx => (hlast hidx).badCrc,
    fun hidx hwanted hcrc => (haccepted hidx hwanted hcrc).verify,
    fun hidx hwanted hcrc => (haccepted hidx hwanted hcrc).read,
    fun hidx hwanted hcrc => (haccepted hidx hwanted hcrc).write⟩

end Sys2Proof.Machine
end

section
/-! PROOFS. A zero-delay transition of a running command, by the ending of the handler it runs; and the next record
(R147, R246). -/

namespace Sys2Proof.Machine

/-! ### Entering a state at once commutes with the shared operations (R147) -/

theorem State.entering_reports (s : State) (f : Fdc) (e : ErrorFlag) (S : OpStatus) :
    (s.withFdc (reports f e)).entering S = (s.entering S).withFdc (reports { f with op := S, cmdPulse := none } e) :=
  congrArg (State.withFdc _) (reports_onChain f e S none).symm

/-- What a logical write reads of the state: the parameters, the drives, the selection, and the cursor (R84, R90). -/
def State.writeHead (s : State) : Config × Vector Drive 4 × Option (Fin 4) × Bool × Bool × Nat :=
  (s.cfg, s.drives, s.fdc.selDrive, s.fdc.side, s.fdc.dd, s.fdc.cursor)

/-- Two states with the same head write the same bytes and move the cursor alike. -/
theorem State.writeLogical_congr {s u : State} (h : u.writeHead = s.writeHead) (v : Byte) :
    (u.writeLogical v).drives = (s.writeLogical v).drives ∧
      (u.writeLogical v).fdc.cursor = (s.writeLogical v).fdc.cursor := by
  simp only [State.writeHead, Prod.mk.injEq] at h
  obtain ⟨hcfg, hdrives, hsel, hside, hdd, hcursor⟩ := h
  have hdrive : ∀ n, u.drive n = s.drive n := fun n => by simp only [State.drive, hdrives]
  have htrack : u.curTrack = s.curTrack := by simp only [State.curTrack, hsel, hside, hdrive]
  have hmedium : u.curMedium = s.curMedium := by simp only [State.curMedium, hsel, hdrive]
  have hstride : u.stride = s.stride := by simp only [State.stride, hmedium, hdd]
  have hlen : u.trackLen = s.trackLen := by simp only [State.trackLen, htrack, hstride, hcfg, hdd]
  cases hT : s.curTrack with
  | none =>
    rw [State.writeLogical_of_none hT, State.writeLogical_of_none (htrack.trans hT), hcursor, hstride, hlen]
    exact ⟨hdrives, rfl⟩
  | some T =>
    obtain ⟨n, m, hn, hm, -⟩ := State.curTrack_eq_some hT
    rw [State.writeLogical_of_some hT, State.writeLogical_of_some (htrack.trans hT), hcursor, hstride, hlen]
    simp only [State.withFdc, State.setCurTrack, hsel, hn, hdrive, hm, hside, State.setDrive, hdrives, and_self]

theorem State.entering_writeLogical (s : State) (v : Byte) (S : OpStatus) :
    (s.writeLogical v).entering S = (s.entering S).writeLogical v := by
  obtain ⟨hdrives, -⟩ := State.writeLogical_congr (s := s) (u := s.entering S) rfl v
  rw [State.writeLogical_shape (s.entering S), hdrives, State.writeLogical_shape s]
  rfl

/-! ### A running command's transition, by the ending of the handler it runs -/

section Running
variable {s u : State} {S : OpStatus} (hbusy : s.fdc.busy = true)
include hbusy

theorem State.goto_zero_busy : s.goto S 0 = finish 15 (runHandler (s.entering S)) := by
  rw [State.goto_zero, gotoNow_busy hbusy]

/-- The handler waits a byte-time for the next state. -/
theorem goto_waitsByte (hl : legalConfig s.cfg = true) {T : OpStatus}
    (hrun : runHandler (s.entering S) = .goto T s.byteDelay (u.entering S)) :
    waitsAfter u T (byteTicks s.cfg s.fdc.dd) (s.goto S 0) := by
  rw [State.goto_zero_busy hbusy, hrun]
  exact waitsAfter_of_onChain (u.onChain_entering S) (finish_waits 15 T (State.byteDelay_pos hl) _)

/-- The handler waits a byte-time, for the one state or the other. -/
theorem goto_waitsByte_ite (hl : legalConfig s.cfg = true) {c : Prop} [Decidable c] {T T' : OpStatus} {u' : State}
    (hrun : runHandler (s.entering S) =
      if c then .goto T s.byteDelay (u.entering S) else .goto T' s.byteDelay (u'.entering S)) :
    if c then waitsAfter u T (byteTicks s.cfg s.fdc.dd) (s.goto S 0)
    else waitsAfter u' T' (byteTicks s.cfg s.fdc.dd) (s.goto S 0) :=
  ite_prop_iff_and.2 ⟨fun hc => goto_waitsByte hbusy hl (hrun.trans (if_pos hc)),
    fun hc => goto_waitsByte hbusy hl (hrun.trans (if_neg hc))⟩

/-- The handler ends the command. -/
theorem goto_completes (hcmd : s.fdc.cmd ≠ .forceInterrupt)
    (hrun : runHandler (s.entering S) = .goto .nmi 0 (u.entering S)) : completesAs u (s.goto S 0) := by
  have hframe := runHandler_frame (s.entering S)
  rw [hrun] at hframe
  rw [State.goto_zero_busy hbusy, hrun]
  exact completesAs_of_onChain (u.onChain_entering S)
    (finish_completes 14 (hframe.keeps.busy hbusy) (hframe.keeps.cmd ▸ hcmd))

/-- The handler ends the command with an error (R47). -/
theorem goto_completes_reporting (hcmd : s.fdc.cmd ≠ .forceInterrupt) {f : Fdc} {e : ErrorFlag}
    (hrun : runHandler (s.entering S) =
      .goto .nmi 0 ((s.entering S).withFdc (reports { f with op := S, cmdPulse := none } e))) :
    completesAs (s.withFdc (reports f e)) (s.goto S 0) :=
  goto_completes hbusy hcmd (by rw [hrun, State.entering_reports])

end Running

/-! ### The next record (R246) -/

theorem Fdc.anyError_eq_false_iff {f : Fdc} : f.anyError = false ↔ f.errorCount = 0 := by
  simp only [Fdc.anyError, Fdc.errorCount, Bool.or_eq_false_iff, Nat.add_eq_zero_iff, Bool.toNat_eq_zero]

theorem nextRecordGoes_of_onChain {s u t : State} (h : OnChain s u) (hgoes : nextRecordGoes u t) : nextRecordGoes s t := by
  obtain ⟨S, pulse, k, hk, rfl⟩ := id h
  exact ite_of_branches (searchBegins_of_onChain ⟨S, pulse, k, hk, rfl⟩) (completesAs_of_onChain h) hgoes

theorem finish_nextRecord {s : State} (hl : legalConfig s.cfg = true) (hbusy : s.fdc.busy = true)
    (hcmd : s.fdc.cmd = .readSector ∨ s.fdc.cmd = .writeSector) (n : Nat) :
    nextRecordGoes s (finish (n + 1) (nextRecord s)) := by
  have hmore : (s.flagM && !s.fdc.anyError) = true ↔ s.fdc.cr.getLsbD 4 = true ∧ s.fdc.errorCount = 0 := by
    rw [Bool.and_eq_true, Bool.not_eq_true', Fdc.anyError_eq_false_iff]
    rfl
  have hsearches : s.fdc.cmd.searches = true := by rcases hcmd with h | h <;> rw [h] <;> rfl
  have hforce : s.fdc.cmd ≠ .forceInterrupt := by rcases hcmd with h | h <;> rw [h] <;> decide
  unfold nextRecordGoes nextRecord
  simp only [hmore]
  split_ifs
  · refine finish_searchStart (s := s.withFdc _) ?_ ?_ n ?_ <;> assumption
  · exact finish_completes n hbusy hforce

/-- The handler ends a record. -/
theorem goto_nextRecord {s u : State} {S : OpStatus} (hbusy : s.fdc.busy = true) (hl : legalConfig u.cfg = true)
    (hbusy' : u.fdc.busy = true) (hcmd : u.fdc.cmd = .readSector ∨ u.fdc.cmd = .writeSector)
    (hrun : runHandler (s.entering S) = nextRecord (u.entering S)) : nextRecordGoes u (s.goto S 0) := by
  rw [State.goto_zero_busy hbusy, hrun]
  exact nextRecordGoes_of_onChain (u.onChain_entering S) (finish_nextRecord (s := u.entering S) hl hbusy' hcmd 14)

end Sys2Proof.Machine
end

section
/-! PROOFS. The handlers of the ID search and of Read Sector, each run from a GOTO (R230 to R233, R241 to R246). -/

namespace Sys2Proof.Machine

/-! ### The ID search (R230 to R233) -/

theorem onSeekingIdam_eq (s : State) : onSeekingIdam s =
    if s.cfg.revLimit * tpr s.cfg ≤ s.clk.ticks - s.fdc.searchStart then
      .goto .nmi 0 (s.withFdc (reports s.fdc (if s.fdc.crcSeen then .crcErr else .seekErr)))
    else if s.logicalByte.2 then
      .goto .readingAddressData s.byteDelay (s.withFdc { s.afterRead.fdc with crc := s.crcOfMark 0xFE, idIdx := 0 })
    else .goto .seekingIdam s.byteDelay s.afterRead := by
  unfold onSeekingIdam onExhausted State.exhausted
  simp only [decide_eq_true_eq, State.setError_eq]
  rfl

/-- Settles O21: Delay's chain runs into the search, the first slot, the first-byte window, or the completion. -/
theorem settleEnds : Obligations.SettleEnds := by
  unfold Obligations.SettleEnds
  intro s hfault hbusy hl hcount hcmd
  have htype : s.fdc.cmd.type = .typeII ∨ s.fdc.cmd.type = .typeIII := by
    rcases hcmd with h | h | h | h | h <;> rw [h] <;> decide
  exact ⟨_, exec_goto hfault _ _, finish_delay hl hbusy 12 htype hcount⟩

/-- Settles O23: the ceiling is tested first, and the byte's hit decides what follows. -/
theorem seekingIdam : Obligations.SeekingIdam := by
  unfold Obligations.SeekingIdam
  intro s hfault hbusy hl hcmd
  obtain ⟨-, -, hnmi⟩ := CmdKind.states_of_searches hcmd
  have hrun : runHandler (s.entering .seekingIdam) = onSeekingIdam (s.entering .seekingIdam) :=
    onlyFor_of_eq_true hcmd _ _
  rw [onSeekingIdam_eq] at hrun
  refine ⟨_, exec_goto hfault _ _, ite_prop_iff_and.2 ⟨fun hspent => ?_,
    fun hspent => ite_prop_iff_and.2 ⟨fun hhit => ?_, fun hhit => ?_⟩⟩⟩
  · exact goto_completes_reporting hbusy (bne_iff_ne.1 hnmi) (hrun.trans (if_pos hspent))
  · exact goto_waitsByte hbusy hl (hrun.trans ((if_neg hspent).trans (if_pos hhit)))
  · exact goto_waitsByte hbusy hl (hrun.trans ((if_neg hspent).trans (if_neg hhit)))

/-! ### The bytes of Read Sector (R241 to R245) -/

/-- A data mark stands at the head, in double density right after three sync bytes (R241, R242). -/
def State.markHere (s : State) : Prop :=
  (s.logicalByte.1 = 0xF8 ∨ s.logicalByte.1 = 0xF9 ∨ s.logicalByte.1 = 0xFA ∨ s.logicalByte.1 = 0xFB) ∧
    (s.fdc.dd = false ∨ s.fdc.recent = #v[0xA1, 0xA1, 0xA1])

theorem State.markHere_iff {s : State} :
    (isDataMark s.logicalByte.1 && (!s.fdc.dd || afterSync s.fdc.recent)) = true ↔ s.markHere := by
  simp [isDataMark, afterSync, State.markHere, or_assoc]

theorem onSeekingDam_of_mark {s : State} (h : s.markHere) : onSeekingDam s =
    .goto .readingData s.byteDelay (s.withFdc { s.afterRead.fdc with
      recordType := isDeletedMark s.logicalByte.1, crc := s.crcOfMark s.logicalByte.1, count := 0 }) :=
  if_pos (State.markHere_iff.2 h)

theorem onSeekingDam_of_no_mark {s : State} (h : ¬ s.markHere) : onSeekingDam s =
    (let u := s.withFdc { s.afterRead.fdc with count := s.fdc.count + 1 }
    if damLimit s.cfg s.fdc.dd ≤ s.fdc.count + 1 then .goto .nmi 0 (s.withFdc (reports u.fdc .seekErr))
    else .goto .seekingDam s.byteDelay u) := by
  unfold onSeekingDam
  dsimp only
  rw [if_neg (mt State.markHere_iff.1 h), State.setError_eq]
  rfl

/-- The controller after a byte of Read Sector's data (R243). -/
def State.dataRead (s : State) : Fdc :=
  delivered { s.afterRead.fdc with crc := s.crcStep s.fdc.crc s.logicalByte.1 } s.logicalByte.1

theorem onReadingData_eq (s : State) : onReadingData s =
    if s.fdc.count + 1 < s.fdc.secLen then
      .goto .readingData s.byteDelay (s.withFdc { s.dataRead with count := s.fdc.count + 1 })
    else .goto .readCrc s.byteDelay (s.withFdc { s.dataRead with count := 0 }) := by
  have hcount : s.dataRead.count = s.fdc.count := by
    rw [State.dataRead, delivered_shape]
    rfl
  have hsecLen : s.dataRead.secLen = s.fdc.secLen := by
    rw [State.dataRead, delivered_shape]
    rfl
  unfold onReadingData
  dsimp only
  rw [State.deliver_eq, ← hcount, ← hsecLen]
  rfl

theorem onReadCrc_eq (s : State) : onReadCrc s =
    (let u := s.withFdc { s.afterRead.fdc with
      crc := s.crcStep s.fdc.crc s.logicalByte.1, count := s.fdc.count + 1 }
    if s.fdc.count + 1 < 2 then .goto .readCrc s.byteDelay u
    else if u.fdc.crc = 0 then nextRecord u
    else .goto .nmi 0 (s.withFdc (reports u.fdc .crcErr))) := by
  unfold onReadCrc
  simp only [State.setError_eq, ne_eq, ite_not]
  rfl

theorem State.entering_dataRead (s : State) (S : OpStatus) :
    (s.entering S).dataRead = { s.dataRead with op := S, cmdPulse := none } :=
  delivered_onChain { s.afterRead.fdc with crc := s.crcStep s.fdc.crc s.logicalByte.1 } s.logicalByte.1 S none

/-! ### Read Sector (R241 to R246) -/

/-- Settles O25: the mark ends the window, and without it the limit decides. -/
theorem seekingDam : Obligations.SeekingDam := by
  unfold Obligations.SeekingDam
  intro s hfault hbusy hl hcmd
  have hrun : runHandler (s.entering .seekingDam) = onSeekingDam (s.entering .seekingDam) :=
    onlyFor_of_eq_true (beq_iff_eq.2 hcmd) _ _
  have hseek (hno : ¬ s.markHere) :=
    hrun.trans (onSeekingDam_of_no_mark (s := s.entering .seekingDam) hno)
  refine ⟨_, exec_goto hfault _ _, fun hmark => ?_, fun hno hlimit => ?_, fun hno hroom => ?_⟩
  · exact goto_waitsByte hbusy hl (hrun.trans (onSeekingDam_of_mark (s := s.entering .seekingDam) hmark))
  · exact goto_completes_reporting hbusy (by rw [hcmd]; decide) ((hseek hno).trans (if_pos hlimit))
  · exact goto_waitsByte hbusy hl ((hseek hno).trans (if_neg (Nat.not_le.2 hroom)))

/-- Settles O26: the count against the sector length decides between the next byte and the CRC. -/
theorem readingData : Obligations.ReadingData := by
  unfold Obligations.ReadingData
  intro s hfault hbusy hl hcmd
  have hrun : runHandler (s.entering .readingData) = onReadingData (s.entering .readingData) :=
    onlyFor_of_eq_true (beq_iff_eq.2 hcmd) _ _
  rw [onReadingData_eq, State.entering_dataRead] at hrun
  exact ⟨_, exec_goto hfault _ _, goto_waitsByte_ite hbusy hl hrun⟩

/-- Settles O27: the second byte closes the record, by the CRC it leaves. -/
theorem readCrc : Obligations.ReadCrc := by
  unfold Obligations.ReadCrc
  intro s hfault hbusy hl hcmd
  have hrun : runHandler (s.entering .readCrc) = onReadCrc (s.entering .readCrc) :=
    onlyFor_of_eq_true (beq_iff_eq.2 hcmd) _ _
  rw [onReadCrc_eq] at hrun
  refine ⟨_, exec_goto hfault _ _, ite_prop_iff_and.2 ⟨fun hfirst => ?_,
    fun hfirst => ite_prop_iff_and.2 ⟨fun hgood => ?_, fun hgood => ?_⟩⟩⟩
  · exact goto_waitsByte hbusy hl (hrun.trans (if_pos hfirst))
  · exact goto_nextRecord hbusy hl hbusy (.inl hcmd) (hrun.trans ((if_neg hfirst).trans (if_pos hgood)))
  · exact goto_completes_reporting hbusy (by rw [hcmd]; decide) (hrun.trans ((if_neg hfirst).trans (if_neg hgood)))

end Sys2Proof.Machine
end

section
/-! PROOFS. The handlers of Write Sector, each run from a GOTO (R251 to R256). -/

namespace Sys2Proof.Machine

/-! ### The gap, the zeros and the mark (R251 to R253) -/

/-- DRQ is raised, and a held Host released, when the count is reached (R251, R456). -/
theorem State.raiseDrq_at (s : State) (n : Nat) : (if s.fdc.count = n then s.raiseDrq else s) =
    s.withFdc { s.fdc with drq := s.fdc.drq || s.fdc.count == n, waitReq := s.fdc.waitReq && s.fdc.count != n } := by
  by_cases h : s.fdc.count = n
  · rw [if_pos h, h, beq_self_eq_true, bne_self_eq_false, Bool.or_true, Bool.and_false]
    rfl
  · rw [if_neg h, beq_false_of_ne h, bne, beq_false_of_ne h, Bool.or_false, Bool.not_false, Bool.and_true]
    rfl

/-- The controller after a byte of Write Sector's gap window (R251). -/
def State.gapPassed (s : State) : Fdc :=
  { s.afterRead.fdc with
    count := s.fdc.count + 1
    drq := s.fdc.drq || s.fdc.count + 1 == s.cfg.wsDrqAt
    waitReq := s.fdc.waitReq && s.fdc.count + 1 != s.cfg.wsDrqAt }

theorem onWriteGap_eq (s : State) : onWriteGap s =
    if s.fdc.count + 1 < wsWindow s.cfg s.fdc.dd then .goto .writeGap s.byteDelay (s.withFdc s.gapPassed)
    else if s.gapPassed.drq then .goto .nmi 0 (s.withFdc (reports s.gapPassed .lostData))
    else .goto .writingFiller s.byteDelay (s.withFdc { s.gapPassed with count := 0 }) := by
  unfold onWriteGap
  dsimp only
  rw [State.raiseDrq_at, State.setError_eq]
  rfl

/-- Writing a logical byte does not count it. -/
theorem State.writeLogical_count (s : State) (v : Byte) : (s.writeLogical v).fdc.count = s.fdc.count := by
  rw [State.writeLogical_shape]

theorem onWritingFiller_eq (s : State) : onWritingFiller s =
    (let w := s.writeLogical 0x00
    if s.fdc.count + 1 < wsZeros s.cfg s.fdc.dd then
      .goto .writingFiller s.byteDelay (w.withFdc { w.fdc with count := s.fdc.count + 1 })
    else .goto .writingDam s.byteDelay (w.withFdc { w.fdc with count := 0 })) := by
  unfold onWritingFiller
  dsimp only
  rw [State.withFdc_fdc, State.writeLogical_count]
  rfl

theorem onWritingDam_eq (s : State) : onWritingDam s =
    (let w := s.writeLogical s.writeMark
    if s.fdc.dd = true ∧ s.fdc.count < 3 then
      .goto .writingDam s.byteDelay
        ((s.writeLogical 0xA1).withFdc { (s.writeLogical 0xA1).fdc with count := s.fdc.count + 1 })
    else .goto .writingData s.byteDelay (w.withFdc { w.fdc with crc := s.crcOfMark s.writeMark, count := 0 })) := by
  unfold onWritingDam
  dsimp only
  rw [State.writeLogical_count]

/-! ### A data byte (R254) -/

/-- The controller with lost data noted when DRQ is still 1 (R254, R47). -/
def Fdc.lostNoted (f : Fdc) : Fdc := if f.drq then reports f .lostData else f

theorem Fdc.lostNoted_shape (f : Fdc) : f.lostNoted = { f with
    seekErr := f.lostNoted.seekErr, crcErr := f.lostNoted.crcErr, lostData := f.lostNoted.lostData,
    wpErr := f.lostNoted.wpErr } := by
  unfold Fdc.lostNoted
  split_ifs
  · exact reports_shape f .lostData
  · rfl

theorem Fdc.lostNoted_onChain (f : Fdc) (S : OpStatus) (pulse : Option Nat) :
    Fdc.lostNoted { f with op := S, cmdPulse := pulse } = { f.lostNoted with op := S, cmdPulse := pulse } := by
  unfold Fdc.lostNoted
  rw [reports_onChain]
  split_ifs <;> rfl

/-- Noting lost data does not move the head: the byte lands where it would have. -/
theorem State.noteLost_writeLogical (s : State) (v : Byte) : s.noteLost.writeLogical v = { s with
    drives := (s.writeLogical v).drives
    fdc := { s.fdc.lostNoted with cursor := (s.writeLogical v).fdc.cursor } } := by
  have hlost : s.noteLost = s.withFdc s.fdc.lostNoted := State.noteLost_eq s
  have hhead : (s.withFdc s.fdc.lostNoted).writeHead = s.writeHead := by
    rw [Fdc.lostNoted_shape]
    rfl
  obtain ⟨hdrives, hcursor⟩ := State.writeLogical_congr hhead v
  rw [hlost, State.writeLogical_shape, hdrives, ← hcursor, State.writeLogical_shape]
  rfl

/-- The state after a byte of Write Sector's data, but for the count and DRQ (R254). -/
def State.dataWritten (s : State) : State :=
  { s with
    drives := (s.writeLogical s.hostByte).drives
    fdc := { s.fdc.lostNoted with
      cursor := (s.writeLogical s.hostByte).fdc.cursor, crc := s.crcStep s.fdc.crc s.hostByte } }

theorem onWritingData_eq (s : State) : onWritingData s =
    if s.fdc.count + 1 < s.fdc.secLen then
      .goto .writingData s.byteDelay (s.dataWritten.withFdc { s.dataWritten.fdc with
        count := s.fdc.count + 1, drq := true, waitReq := false })
    else .goto .writeCrc s.byteDelay (s.dataWritten.withFdc { s.dataWritten.fdc with count := 0 }) := by
  have hshape := Fdc.lostNoted_shape s.fdc
  unfold onWritingData
  dsimp only
  rw [State.noteLost_writeLogical]
  unfold State.dataWritten
  rw [hshape]
  rfl

theorem State.entering_dataWritten (s : State) (S : OpStatus) :
    s.dataWritten.entering S = (s.entering S).dataWritten := by
  obtain ⟨hdrives, hcursor⟩ := State.writeLogical_congr (s := s) (u := s.entering S) rfl s.hostByte
  have hlost : (s.entering S).fdc.lostNoted = { s.fdc.lostNoted with op := S, cmdPulse := none } :=
    Fdc.lostNoted_onChain s.fdc S none
  have hbyte : (s.entering S).hostByte = s.hostByte := rfl
  unfold State.dataWritten
  rw [hbyte, hlost, hdrives, hcursor]
  rfl

/-! ### Write Sector (R251 to R256) -/

/-- Settles O29: at the window's end DRQ still raised is lost data. -/
theorem writeGap : Obligations.WriteGap := by
  unfold Obligations.WriteGap
  intro s hfault hbusy hl hcmd
  have hrun : runHandler (s.entering .writeGap) = onWriteGap (s.entering .writeGap) :=
    onlyFor_of_eq_true (beq_iff_eq.2 hcmd) _ _
  rw [onWriteGap_eq] at hrun
  refine ⟨_, exec_goto hfault _ _, ite_prop_iff_and.2 ⟨fun hmore => ?_,
    fun hmore => ite_prop_iff_and.2 ⟨fun hlost => ?_, fun hlost => ?_⟩⟩⟩
  · exact goto_waitsByte hbusy hl (hrun.trans (if_pos hmore))
  · exact goto_completes_reporting hbusy (by rw [hcmd]; decide) (hrun.trans ((if_neg hmore).trans (if_pos hlost)))
  · exact goto_waitsByte hbusy hl (hrun.trans ((if_neg hmore).trans (if_neg hlost)))

/-- Settles O30: the zeros are counted, then the sync bytes of double density, then the mark. -/
theorem writeMark : Obligations.WriteMark := by
  unfold Obligations.WriteMark
  intro s hfault hbusy hl hcmd
  have hfiller : runHandler (s.entering .writingFiller) = onWritingFiller (s.entering .writingFiller) :=
    onlyFor_of_eq_true (beq_iff_eq.2 hcmd) _ _
  have hdam : runHandler (s.entering .writingDam) = onWritingDam (s.entering .writingDam) :=
    onlyFor_of_eq_true (beq_iff_eq.2 hcmd) _ _
  rw [onWritingFiller_eq, ← State.entering_writeLogical] at hfiller
  rw [onWritingDam_eq, ← State.entering_writeLogical, ← State.entering_writeLogical] at hdam
  exact ⟨⟨_, exec_goto hfault _ _, goto_waitsByte_ite hbusy hl hfiller⟩,
    ⟨_, exec_goto hfault _ _, goto_waitsByte_ite hbusy hl hdam⟩⟩

/-- Settles O31: noting lost data leaves the head alone, so the byte is written where it stood. -/
theorem writingData : Obligations.WritingData := by
  unfold Obligations.WritingData
  intro s hfault hbusy hl hcmd
  have hrun : runHandler (s.entering .writingData) = onWritingData (s.entering .writingData) :=
    onlyFor_of_eq_true (beq_iff_eq.2 hcmd) _ _
  rw [onWritingData_eq, ← State.entering_dataWritten] at hrun
  exact ⟨_, exec_goto hfault _ _, goto_waitsByte_ite hbusy hl hrun⟩

/-- Settles O32: the count tells the two CRC bytes apart, and the trailer closes the record. -/
theorem writeEnd : Obligations.WriteEnd := by
  unfold Obligations.WriteEnd
  intro s hfault hbusy hl hcmd
  have hcrc : runHandler (s.entering .writeCrc) = onWriteCrc (s.entering .writeCrc) :=
    onlyFor_of_eq_true (beq_iff_eq.2 hcmd) _ _
  have htrailer : runHandler (s.entering .writeTrailer) = onWriteTrailer (s.entering .writeTrailer) :=
    onlyFor_of_eq_true (beq_iff_eq.2 hcmd) _ _
  rw [onWriteCrc, ← State.entering_writeLogical, ← State.entering_writeLogical] at hcrc
  rw [onWriteTrailer, ← State.entering_writeLogical] at htrailer
  have hshape := State.writeLogical_shape s 0xFF
  refine ⟨⟨_, exec_goto hfault _ _, goto_waitsByte_ite hbusy hl hcrc⟩, ⟨_, exec_goto hfault _ _, ?_⟩⟩
  refine goto_nextRecord hbusy ?_ ?_ ?_ htrailer <;> rw [hshape]
  · exact hl
  · exact hbusy
  · exact .inr hcmd

end Sys2Proof.Machine
end

section
/-! PROOFS. What Write Track does to the current track: the raw bytes it puts, the commit, and what an abort leaves
(R288, R292, R293). -/

namespace Sys2Proof.Machine

/-! ### The current track, replaced -/

theorem State.setCurTrack_curTrack {s : State} {T₀ : Track} (h : s.curTrack = some T₀) (T : Track) (c : Bool) :
    (s.setCurTrack T c).curTrack = some T := by
  obtain ⟨-, -, -, -, -, hcur, -⟩ := State.setCurTrack_spec T c h
  exact hcur

theorem Medium.setTrack_self {m : Medium} {t : Nat} {side : Bool} {T : Track} (h : m.track t side = some T) :
    m.setTrack t side T = m := by
  unfold Medium.track at h
  unfold Medium.setTrack
  cases hi : m.trackIndex t side with
  | none => rfl
  | some i =>
    rw [hi] at h
    obtain ⟨hlt, hget⟩ := List.getElem?_eq_some_iff.1 h
    dsimp only
    rw [← hget, List.set_getElem_self]

theorem State.setDrive_self (s : State) (n : Fin 4) : s.setDrive n (s.drive n) = s := by
  simp [State.setDrive, State.drive]

theorem State.curMedium_of_selDrive {s : State} {n : Fin 4} {m : Medium} (hn : s.fdc.selDrive = some n)
    (hm : (s.drive n).medium = some m) : s.curMedium = some m := by
  simp only [State.curMedium, hn, hm]

theorem State.curChanged_of_curMedium {s : State} {m : Medium} (h : s.curMedium = some m) : s.curChanged = m.changed := by
  simp only [State.curChanged, h]

/-- Replacing the current track by itself, under its medium's own flag, changes nothing. -/
theorem State.setCurTrack_self {s : State} {T : Track} (h : s.curTrack = some T) : s.setCurTrack T s.curChanged = s := by
  obtain ⟨n, m, hn, hm, hT⟩ := State.curTrack_eq_some h
  have hdrive : ({ (s.drive n) with medium := some { m with changed := m.changed } } : Drive) = s.drive n := by
    rw [← hm]
  unfold State.setCurTrack
  simp only [hn, hm]
  rw [Medium.setTrack_self hT, State.curChanged_of_curMedium (State.curMedium_of_selDrive hn hm), hdrive, State.setDrive_self]

/-! ### The raw bytes Write Track puts (R288) -/

theorem putRun_of_full {cap p : Nat} (h : cap ≤ p) (v : Byte) (T : Track) (k : Nat) : putRun cap p v T k = T := by
  induction k with
  | zero => rfl
  | succ k ih => rw [putRun, ih, putRaw, if_neg (by omega)]

/-- From a cursor inside the track or at its end, the track grows to the new cursor, up to the capacity. -/
theorem putRun_len_eq {cap p : Nat} {T : Track} (hcap : T.len ≤ cap) (hp : p ≤ T.len) (v : Byte) (k : Nat) :
    (putRun cap p v T k).len = max T.len (min cap (p + k)) := by
  induction k with
  | zero =>
    rw [putRun]
    omega
  | succ k ih =>
    rw [putRun, putRaw_len, ih]
    split_ifs <;> omega

/-- One raw byte inside the track or at its end. -/
theorem putRaw_read {cap p : Nat} {T : Track} (hbuf : T.bufferOk cap = true) (hp : p ≤ T.len ∨ cap ≤ p) (v : Byte)
    (a : Nat) : (putRaw cap p v T).data.read a = if a = p ∧ p < cap then v else T.data.read a := by
  have hwf := Track.wf_of_bufferOk hbuf
  unfold putRaw
  by_cases hroom : p < cap
  · have hwrite : (if p < T.len then ({ T with data := T.data.write p v } : Track)
        else { T with len := T.len + 1, data := T.data.write T.len v }).data = T.data.write p v := by
      split_ifs with hin
      · rfl
      · rw [show p = T.len by omega]
    rw [if_pos hroom, hwrite, Memory.read_write _ _ _ hwf]
    exact if_congr (by simp [hroom, eq_comm]) rfl rfl
  · simp [hroom]

/-- A run of raw bytes: `v` at the places below the capacity, every other place as before. -/
theorem putRun_read {cap p : Nat} {T : Track} (hbuf : T.bufferOk cap = true) (hp : p ≤ T.len) (v : Byte) (k a : Nat) :
    (putRun cap p v T k).data.read a = if p ≤ a ∧ a < p + k ∧ a < cap then v else T.data.read a := by
  induction k with
  | zero => rw [putRun, if_neg (by omega)]
  | succ k ih =>
    obtain ⟨-, hreach, -⟩ := putRun_len (cap := cap) v (.inl hp) k
    rw [putRun, putRaw_read (putRun_bufferOk hbuf k).1 hreach, ih]
    by_cases hlast : a = p + k ∧ p + k < cap
    · rw [if_pos hlast, if_pos (by omega)]
    · rw [if_neg hlast]
      exact if_congr (by omega) rfl rfl

theorem Track.len_le_of_bufferOk {cap : Nat} {T : Track} (h : T.bufferOk cap = true) : T.len ≤ cap := by
  simp only [Track.bufferOk, Bool.and_eq_true, decide_eq_true_eq] at h
  obtain ⟨⟨⟨-, hle⟩, -⟩, -⟩ := h
  exact hle

/-- Past the capacity a byte moves the cursor and is dropped. -/
theorem State.wtPut_of_full {s : State} {T : Track} (h : s.curTrack = some T) (hfull : s.capacity ≤ s.fdc.cursor)
    (v : Byte) : s.wtPut v = s.withFdc { s.fdc with
      cursor := s.fdc.cursor + s.stride, recent := shiftRecent s.fdc.recent v } := by
  rw [State.wtPut_of_some h, putRun_of_full hfull, decide_eq_false (Nat.not_lt.2 hfull), Bool.or_false,
    State.setCurTrack_self h]

theorem State.wtPut_trackByte_of_other {s : State} {T : Track} (h : s.curTrack = some T) (v : Byte) {n : Fin 4} {t : Nat}
    {side : Bool} (hother : ¬ (s.fdc.selDrive = some n ∧ t = (s.drive n).physTrack ∧ side = s.fdc.side)) (pos : Nat) :
    (s.wtPut v).trackByte n t side pos = s.trackByte n t side pos := by
  have hset := State.trackByte_setCurTrack (putRun s.capacity s.fdc.cursor v T s.stride)
    (s.curChanged || decide (s.fdc.cursor < s.capacity)) h n t side pos
  rw [if_neg hother] at hset
  rw [State.wtPut_of_some h, ← hset]
  exact State.trackByte_congr rfl n t side pos

/-- Settles O37: the run of raw bytes replaces the current track by one grown up to the capacity, and past it leaves it. -/
theorem writeTrackPut : Obligations.WriteTrackPut := by
  unfold Obligations.WriteTrackPut
  intro v s hinv
  refine ⟨fun hnone => State.wtPut_of_none hnone v, fun n m T hn hm hcur => ?_⟩
  have hmed := State.curMedium_of_selDrive hn hm
  have hcap := State.capacity_of_curMedium hmed
  have hform : s.Form := ⟨hinv.heads, hinv.media⟩
  obtain ⟨hbuf, -⟩ := hform.curTrack hcur
  have hlen := Track.len_le_of_bufferOk hbuf
  dsimp only
  rw [← hcap]
  refine ⟨fun hfull => State.wtPut_of_full hcur hfull v, fun hin => ⟨⟨_, ?_, State.wtPut_curTrack_of_some hcur v,
    putRun_index .., putRun_len_eq hlen hin v s.stride, fun pos hpos => ?_⟩, fun n' t side pos hother => ?_⟩⟩
  · rw [State.wtPut_of_some hcur, State.setCurTrack_withTrack _ _ hn hm hcur, State.curChanged_of_curMedium hmed]
    rfl
  · have hroom := Track.len_le_of_bufferOk (putRun_bufferOk (p := s.fdc.cursor) (v := v) hbuf s.stride).1
    rw [putRun_read hbuf hin]
    exact if_congr (by omega) rfl rfl
  · refine State.wtPut_trackByte_of_other hcur v (fun hhere => hother ?_) pos
    obtain ⟨hn', ht, hside⟩ := hhere
    cases hn.symm.trans hn'
    exact ⟨rfl, ht, hside⟩

/-! ### The commit and the abort (R292, R293) -/

theorem State.wtCommit_of_none {s : State} (h : s.curTrack = none) : s.wtCommit = s := by
  simp only [State.wtCommit, h]

/-- A track cut to its first `n` raw bytes, under another index. -/
def Track.cut (T : Track) (n : Nat) (index : List IdamEntry) : Track where
  len := n
  data := T.data.below n
  index := index

theorem State.wtCommit_of_some {s : State} {T : Track} (h : s.curTrack = some T) :
    s.wtCommit =
      s.setCurTrack (T.cut (min (min s.fdc.cursor s.capacity) T.len) s.fdc.newIndex) s.curChanged := by
  simp only [State.wtCommit, h, Track.cut]

theorem State.wtAbort_of_none {s : State} (h : s.curTrack = none) : s.wtAbort = s := by
  simp only [State.wtAbort, h]

theorem State.wtAbort_of_some {s : State} {T : Track} (h : s.curTrack = some T) :
    s.wtAbort = s.setCurTrack
      { T with index := abortedIndex s.cfg.idamSlots s.fdc.cursor s.fdc.newIndex T } s.curChanged := by
  simp only [State.wtAbort, h]

/-- With the written extent inside the track, the commit cuts the track there and gives it the new index (R292). -/
theorem State.wtCommit_track {s : State} {n : Fin 4} {m : Medium} {T : Track} (hn : s.fdc.selDrive = some n)
    (hm : (s.drive n).medium = some m) (hcur : s.curTrack = some T)
    (hextent : min s.fdc.cursor (m.declLen - s.cfg.trackHdr) ≤ T.len) :
    ∃ T', s.wtCommit = s.withTrack n m (s.drive n).physTrack s.fdc.side T' ∧ s.wtCommit.curTrack = some T' ∧
      T'.len = min s.fdc.cursor (m.declLen - s.cfg.trackHdr) ∧
      T'.index = s.fdc.newIndex ∧ ∀ pos, pos < T'.len → T'.data.read pos = T.data.read pos := by
  have hcap := State.capacity_of_curMedium (State.curMedium_of_selDrive hn hm)
  rw [State.wtCommit_of_some hcur, hcap, Nat.min_eq_left hextent]
  exact ⟨_, State.setCurTrack_eq_withTrack _ hn hm hcur, State.setCurTrack_curTrack hcur _ _, rfl, rfl,
    fun pos hpos => Memory.read_below hpos⟩

/-- Settles O43: the abort replaces the current track by itself under another index. -/
theorem writeTrackAbort : Obligations.WriteTrackAbort := by
  unfold Obligations.WriteTrackAbort
  refine ⟨fun s hnone => State.wtAbort_of_none hnone, fun s n m T hn hm hcur => ⟨?_, ?_, sameBytes_wtAbort s⟩⟩
  · rw [State.wtAbort_of_some hcur]
    exact State.setCurTrack_eq_withTrack _ hn hm hcur
  · rw [State.wtAbort_of_some hcur]
    exact State.setCurTrack_curTrack hcur _ _

end Sys2Proof.Machine
end
section
/-! PROOFS. The bytes that Read Address and Read Track deliver (R271, R272, R279, R280). -/

namespace Sys2Proof.Machine

/-! ### Read Address (R271, R272) -/

/-- The controller after a byte of Read Address's ID field: the byte in the ID buffer and delivered (R271). -/
def State.idDelivered (s : State) : Fdc := delivered s.readIdByte.fdc s.logicalByte.1

theorem State.idDelivered_idIdx (s : State) : s.idDelivered.idIdx = s.fdc.idIdx + 1 := by
  rw [State.idDelivered, delivered_shape]
  rfl

theorem State.entering_idDelivered (s : State) (S : OpStatus) :
    (s.entering S).idDelivered = { s.idDelivered with op := S, cmdPulse := none } :=
  delivered_onChain s.readIdByte.fdc s.logicalByte.1 S none

/-- The handler goes on to the next ID byte, or after the sixth to the end (R271). -/
theorem onReadAddressByte_eq (s : State) : onReadAddressByte s =
    if s.fdc.idIdx + 1 < 6 then .goto .readingAddressData s.byteDelay (s.withFdc s.idDelivered)
    else endReadAddress (s.withFdc s.idDelivered) := by
  unfold onReadAddressByte
  rw [State.deliver_eq, ← State.idDelivered_idIdx]
  rfl

theorem endReadAddress_of_good {s : State} (h : idGood s.fdc) :
    endReadAddress s = .goto .nmi 0 (s.withFdc { s.fdc with sr := s.fdc.idBuf[0] }) :=
  congrArg (HandlerEnd.goto .nmi 0) (if_pos (State.idCrcOk_iff.2 h))

theorem endReadAddress_of_bad {s : State} (h : ¬ idGood s.fdc) :
    endReadAddress s = .goto .nmi 0 (s.withFdc (reports { s.fdc with sr := s.fdc.idBuf[0] } .crcErr)) := by
  have hbad : ¬ (s.withFdc { s.fdc with sr := s.fdc.idBuf[0] }).idCrcOk = true := mt State.idCrcOk_iff.1 h
  unfold endReadAddress
  dsimp only
  rw [if_neg hbad, State.setError_eq]
  rfl

/-- Settles O34: the index decides between the next byte and the end, and there the CRC decides on the error. -/
theorem readAddressByte : Obligations.ReadAddressByte := by
  unfold Obligations.ReadAddressByte
  intro s hfault hbusy hl hcmd _
  have hforce : s.fdc.cmd ≠ .forceInterrupt := by rw [hcmd]; decide
  have hrun : runHandler (s.entering .readingAddressData) = onReadAddressByte (s.entering .readingAddressData) :=
    if_pos hcmd
  rw [onReadAddressByte_eq, State.entering_idDelivered] at hrun
  have hend (hidx : s.fdc.idIdx = 5) := hrun.trans (if_neg (show ¬ s.fdc.idIdx + 1 < 6 by omega))
  refine ⟨_, exec_goto hfault _ _, fun hmore => ?_, fun hlast hgood => ?_, fun hlast hbad => ?_⟩
  · exact goto_waitsByte hbusy hl (hrun.trans (if_pos (show s.fdc.idIdx + 1 < 6 by omega)))
  · exact goto_completes hbusy hforce ((hend hlast).trans (endReadAddress_of_good hgood))
  · exact goto_completes_reporting hbusy hforce ((hend hlast).trans (endReadAddress_of_bad hbad))

/-! ### Read Track (R279, R280) -/

/-- Settles O35: each transition's chain ends in the wait for the index pulse, in a byte slot, or in the completion. -/
theorem readTrackSlots : Obligations.ReadTrackSlots := by
  unfold Obligations.ReadTrackSlots
  intro s hfault hbusy hl hcmd
  exact ⟨⟨_, exec_goto hfault _ _, finish_seekingIndexHole hl hbusy 13 hcmd⟩,
    ⟨_, exec_goto hfault _ _, finish_readingTrack hl hbusy 14 hcmd⟩⟩

end Sys2Proof.Machine
end
section
/-! PROOFS. The byte slots of Write Track: a slot's byte, its end by the next slot or the commit, and the ways into the first
slot (R279, R286, R287). -/

namespace Sys2Proof.Machine

/-! ### What a chain leaves alone under the head (R147) -/

theorem OnChain.curTrack {s u : State} (h : OnChain s u) : u.curTrack = s.curTrack := by
  obtain ⟨S, pulse, k, -, rfl⟩ := h
  exact State.curTrack_congr rfl rfl rfl

theorem OnChain.setCurTrack {s u : State} (h : OnChain s u) {T₀ : Track} (hcur : s.curTrack = some T₀) (T : Track)
    (c : Bool) : OnChain (s.setCurTrack T c) (u.setCurTrack T c) := by
  obtain ⟨n, m, hn, hm, -⟩ := State.curTrack_eq_some hcur
  have hcur' := h.curTrack.trans hcur
  obtain ⟨S, pulse, k, hk, hu⟩ := h
  have hn' : u.fdc.selDrive = some n := by rw [hu]; exact hn
  have hm' : (u.drive n).medium = some m := by rw [hu]; exact hm
  rw [State.setCurTrack_withTrack T c hn hm hcur, State.setCurTrack_withTrack T c hn' hm' hcur', hu]
  exact ⟨S, pulse, k, hk, rfl⟩

/-- The controller past a byte Write Track put (R288). -/
def Fdc.pastByte (f : Fdc) (stride : Nat) (v : Byte) : Fdc :=
  { f with cursor := f.cursor + stride, recent := shiftRecent f.recent v }

theorem OnChain.wtPut {s u : State} (h : OnChain s u) (v : Byte) : OnChain (s.wtPut v) (u.wtPut v) := by
  have hpast {w w' : State} (hw : OnChain w w') := hw.withFdc (update := (·.pastByte s.stride v)) fun _ _ _ => rfl
  have hcur := h.curTrack
  cases hT : s.curTrack with
  | none =>
    have hdrop := hpast h
    obtain ⟨S, pulse, k, hk, rfl⟩ := h
    unfold State.wtPut
    rw [hcur, hT]
    exact hdrop
  | some T =>
    have hput (T' : Track) (c : Bool) := hpast (h.setCurTrack hT T' c)
    obtain ⟨S, pulse, k, hk, rfl⟩ := h
    unfold State.wtPut
    rw [hcur, hT]
    exact hput _ _

theorem OnChain.afterCode {s u : State} (h : OnChain s u) (v : Byte) (crc : Half) (allowed : Bool)
    (index : List IdamEntry) : OnChain (s.afterCode v crc allowed index) (u.afterCode v crc allowed index) :=
  (h.wtPut v).withFdc (update := fun f => { f with crc := crc, crcResetAllowed := allowed, newIndex := index })
    fun _ _ _ => rfl

theorem OnChain.wtByte {s u : State} (h : OnChain s u) (c : Byte) : OnChain (s.wtByte c) (u.wtByte c) := by
  have hcode := h.afterCode
  have hcrcCode := (h.wtPut (hiByte s.fdc.crc)).withFdc
    (update := fun f => { f with pendingCrcLo := some (loByte s.fdc.crc), crcResetAllowed := true }) fun _ _ _ => rfl
  have hcur := h.curTrack
  obtain ⟨S, pulse, k, hk, rfl⟩ := h
  by_cases hc : c = 0xF7
  · rw [hc, State.wtByte_of_crcCode, State.wtByte_of_crcCode]
    exact hcrcCode
  rcases Bool.eq_false_or_eq_true s.fdc.dd with hdd | hdd
  · rw [State.wtByte_of_dd hc hdd, State.wtByte_of_dd hc (by exact hdd)]
    unfold State.indexAfter
    rw [hcur]
    exact hcode _ _ _ _
  · rw [State.wtByte_of_sd hc hdd, State.wtByte_of_sd hc (by exact hdd)]
    unfold State.indexAfter
    rw [hcur]
    exact hcode _ _ _ _

theorem OnChain.wtCommit {s u : State} (h : OnChain s u) : OnChain s.wtCommit u.wtCommit := by
  have hcur := h.curTrack
  cases hT : s.curTrack with
  | none => rwa [State.wtCommit_of_none hT, State.wtCommit_of_none (hcur.trans hT)]
  | some T =>
    rw [State.wtCommit_of_some hT, State.wtCommit_of_some (hcur.trans hT)]
    have hset := h.setCurTrack hT
    obtain ⟨S, pulse, k, hk, rfl⟩ := h
    exact hset _ _

/-! ### The byte of a slot (R287) -/

/-- The state after a slot's byte: the pending CRC byte, or the Host's byte with lost data when it was not supplied. -/
def State.slotWritten (s : State) : State :=
  match s.fdc.pendingCrcLo with
  | some lo => (s.wtPut lo).withFdc { (s.wtPut lo).fdc with pendingCrcLo := none }
  | none => s.noteLost.wtByte s.hostByte

theorem State.slotWritten_of_some {s : State} {lo : Byte} (h : s.fdc.pendingCrcLo = some lo) :
    s.slotWritten = (s.wtPut lo).withFdc { (s.wtPut lo).fdc with pendingCrcLo := none } := by
  rw [State.slotWritten, h]

theorem State.slotWritten_of_none {s : State} (h : s.fdc.pendingCrcLo = none) :
    s.slotWritten = (s.withFdc s.fdc.lostNoted).wtByte s.hostByte := by
  rw [State.slotWritten, h, State.noteLost_eq]
  rfl

/-- A slot without a pending CRC byte consumes the Host's byte (R287). -/
theorem onWritingTrack_eq (s : State) : onWritingTrack s = endWriteSlot s.slotWritten s.fdc.pendingCrcLo.isNone := by
  unfold onWritingTrack State.slotWritten
  cases s.fdc.pendingCrcLo <;> rfl

theorem State.slotWritten_moves (s : State) : Moves s s.slotWritten := by
  unfold State.slotWritten
  cases s.fdc.pendingCrcLo with
  | none => exact (Moves.noteLost .refl).wtByte _
  | some lo => exact (Moves.wtPut .refl lo).update rfl

theorem State.wtPut_slot (s : State) (v : Byte) : (s.wtPut v).fdc.slot = s.fdc.slot := by
  rw [State.wtPut_shape]

theorem State.wtByte_slot (s : State) (c : Byte) : (s.wtByte c).fdc.slot = s.fdc.slot := by
  by_cases hc : c = 0xF7
  · rw [hc, State.wtByte_of_crcCode]
    exact s.wtPut_slot _
  rcases Bool.eq_false_or_eq_true s.fdc.dd with hdd | hdd
  · rw [State.wtByte_of_dd hc hdd]
    exact s.wtPut_slot _
  · rw [State.wtByte_of_sd hc hdd]
    exact s.wtPut_slot _

theorem State.slotWritten_slot (s : State) : s.slotWritten.fdc.slot = s.fdc.slot := by
  cases hpending : s.fdc.pendingCrcLo with
  | none =>
    rw [State.slotWritten_of_none hpending, State.wtByte_slot, State.withFdc_fdc, Fdc.lostNoted_shape]
  | some lo =>
    rw [State.slotWritten_of_some hpending]
    exact s.wtPut_slot lo

theorem OnChain.pendingCrcLo {s u : State} (h : OnChain s u) : u.fdc.pendingCrcLo = s.fdc.pendingCrcLo := by
  obtain ⟨S, pulse, k, -, rfl⟩ := h
  rfl

theorem OnChain.slotWritten {s u : State} (h : OnChain s u) : OnChain s.slotWritten u.slotWritten := by
  have hpending := h.pendingCrcLo
  have hbyte : u.hostByte = s.hostByte := by
    obtain ⟨S, pulse, k, -, rfl⟩ := h
    rfl
  cases hlo : s.fdc.pendingCrcLo with
  | none =>
    rw [State.slotWritten_of_none hlo, State.slotWritten_of_none (hpending.trans hlo), hbyte]
    exact (h.withFdc (update := Fdc.lostNoted) Fdc.lostNoted_onChain).wtByte _
  | some lo =>
    rw [State.slotWritten_of_some hlo, State.slotWritten_of_some (hpending.trans hlo)]
    exact (h.wtPut lo).withFdc (update := fun f => { f with pendingCrcLo := none }) fun _ _ _ => rfl

/-! ### The end of a slot (R287) -/

/-- R287: the end of a byte slot at `s`: the next slot a byte-time later, with DRQ again for a consumed byte, or the commit. -/
def slotEnds (s : State) (consumed : Bool) (t : State) : Prop :=
  let u := s.withFdc { s.fdc with slot := s.fdc.slot + 1 }
  if s.fdc.slot + 1 < slotsPerRev s.cfg s.fdc.dd then
    waitsAfter (if consumed then u.raiseDrq else u) .writingTrack (byteTicks s.cfg s.fdc.dd) t
  else completesAs u.wtCommit t

/-- The outcome of a slot is its byte's write and its end. -/
theorem writeSlotGoes_iff {s t : State} : writeSlotGoes s t ↔ slotEnds s.slotWritten s.fdc.pendingCrcLo.isNone t := by
  have hframe := s.slotWritten_moves.frame
  unfold writeSlotGoes slotEnds
  rw [hframe.cfg, hframe.keeps.dd, State.slotWritten_slot]
  cases hpending : s.fdc.pendingCrcLo with
  | none =>
    rw [State.slotWritten_of_none hpending]
    rfl
  | some lo =>
    rw [State.slotWritten_of_some hpending]
    rfl

theorem slotEnds_of_onChain {s u t : State} (h : OnChain s u) {consumed : Bool} (hends : slotEnds u consumed t) :
    slotEnds s consumed t := by
  have hnext := h.withFdc (update := fun f => { f with slot := f.slot + 1 }) fun _ _ _ => rfl
  have hdrq := hnext.withFdc (update := fun f => { f with drq := true, waitReq := false }) fun _ _ _ => rfl
  have hcommit := hnext.wtCommit
  obtain ⟨S, pulse, k, hk, rfl⟩ := h
  refine ite_of_branches (fun hwaits => ?_) (completesAs_of_onChain hcommit) hends
  cases consumed with
  | false => exact waitsAfter_of_onChain hnext hwaits
  | true => exact waitsAfter_of_onChain hdrq hwaits

theorem writeSlotGoes_of_onChain {s u t : State} (h : OnChain s u) (hgoes : writeSlotGoes u t) : writeSlotGoes s t := by
  rw [writeSlotGoes_iff] at hgoes ⊢
  rw [h.pendingCrcLo] at hgoes
  exact slotEnds_of_onChain h.slotWritten hgoes

theorem writeTrackBegins_of_onChain {s u t : State} (h : OnChain s u) (hgoes : writeTrackBegins u t) :
    writeTrackBegins s t := by
  have hstart := h.withFdc (update := fun f => { f with cursor := 0, slot := 0 }) fun _ _ _ => rfl
  obtain ⟨S, pulse, k, hk, rfl⟩ := h
  exact ite_of_branches (writeSlotGoes_of_onChain hstart) (waitsAfter_of_onChain hstart) hgoes

theorem endWriteSlot_eq (s : State) (consumed : Bool) : endWriteSlot s consumed =
    (let u := s.withFdc { s.fdc with slot := s.fdc.slot + 1 }
    if s.fdc.slot + 1 < slotsPerRev s.cfg s.fdc.dd then
      .goto .writingTrack s.byteDelay (if consumed then u.raiseDrq else u)
    else .goto .nmi 0 u.wtCommit) := rfl

section Handlers
variable {s : State} (hl : legalConfig s.cfg = true) (hbusy : s.fdc.busy = true) (hcmd : s.fdc.cmd = .writeTrack) (n : Nat)
include hl hbusy hcmd

theorem finish_endWriteSlot (consumed : Bool) : slotEnds s consumed (finish (n + 1) (endWriteSlot s consumed)) := by
  rw [endWriteSlot_eq]
  unfold slotEnds
  dsimp only
  refine ite_prop_iff_and.2 ⟨fun hmore => ?_, fun hlast => ?_⟩
  · rw [if_pos hmore]
    exact finish_waits _ _ (State.byteDelay_pos hl) _
  · rw [if_neg hlast]
    refine finish_completes n ?_ ?_ <;> rw [State.wtCommit_shape]
    · exact hbusy
    · exact fun hforce => CmdKind.noConfusion (hcmd.symm.trans hforce)

/-- R287: a byte slot of Write Track. -/
theorem finish_writingTrack : writeSlotGoes s (finish (n + 2) (.goto .writingTrack 0 s)) := by
  have hrun : runHandler (s.entering .writingTrack) = onWritingTrack (s.entering .writingTrack) :=
    onlyFor_of_eq_true (beq_iff_eq.2 hcmd) _ _
  have hframe := (s.entering .writingTrack).slotWritten_moves.frame
  refine writeSlotGoes_of_onChain (s.onChain_entering .writingTrack) (writeSlotGoes_iff.2 ?_)
  rw [finish_enters _ _ hbusy, hrun, onWritingTrack_eq]
  exact finish_endWriteSlot (hframe.cfg ▸ hl) (hframe.keeps.busy hbusy) (hframe.keeps.cmd.trans hcmd) n _

/-- R279 for Write Track. -/
theorem finish_writeTrackIndex : writeTrackBegins s (finish (n + 3) (.goto .seekingIndexHole 0 s)) := by
  have hrun : runHandler (s.entering .seekingIndexHole) = onSeekingIndexHole (s.entering .seekingIndexHole) :=
    onlyFor_of_eq_true (by rw [Bool.or_eq_true, beq_iff_eq, beq_iff_eq]; exact .inr hcmd) _ _
  refine writeTrackBegins_of_onChain (s.onChain_entering .seekingIndexHole) ?_
  rw [finish_enters _ _ hbusy, hrun]
  unfold writeTrackBegins onSeekingIndexHole
  rw [if_neg (show ¬ (s.entering .seekingIndexHole).fdc.cmd = .readTrack from
    fun hread => CmdKind.noConfusion (hcmd.symm.trans hread))]
  dsimp only
  split_ifs with hindex
  · rw [hindex]
    refine finish_writingTrack (s := (s.entering .seekingIndexHole).withFdc _) ?_ ?_ ?_ n <;> assumption
  · exact finish_waits _ _ (Nat.pos_of_ne_zero hindex) _

end Handlers

/-! ### The handlers run from a GOTO (R147, R148) -/

/-- What the first-byte window presets when the byte was supplied (R286). -/
def Fdc.formatPreset (f : Fdc) : Fdc :=
  { f with newIndex := [], pendingCrcLo := none, crcResetAllowed := true, crc := 0xFFFF, recent := #v[0, 0, 0] }

theorem onWriteTrackDrq_of_lost {s : State} (hcount : s.fdc.count ≠ 0) (hdrq : s.fdc.drq = true) :
    onWriteTrackDrq s = .goto .nmi 0 (s.withFdc (reports s.fdc .lostData)) := by
  rw [onWriteTrackDrq, if_neg hcount, if_pos hdrq, State.setError_eq]

theorem onWriteTrackDrq_of_supplied {s : State} (hcount : s.fdc.count ≠ 0) (hdrq : s.fdc.drq = false) :
    onWriteTrackDrq s = .goto .seekingIndexHole 0 (s.withFdc s.fdc.formatPreset) := by
  rw [onWriteTrackDrq, if_neg hcount, if_neg (Bool.eq_false_iff.1 hdrq)]
  rfl

/-- Settles O36: the count tells the entry from the window's end, and there DRQ decides between lost data and the format's
first slot. -/
theorem writeTrackWindow : Obligations.WriteTrackWindow := by
  unfold Obligations.WriteTrackWindow
  intro s hfault hbusy hl hcmd
  have hrun : runHandler (s.entering .writeTrackDrq) = onWriteTrackDrq (s.entering .writeTrackDrq) :=
    onlyFor_of_eq_true (beq_iff_eq.2 hcmd) _ _
  refine ⟨⟨_, exec_goto hfault _ _, finish_writeTrackDrq hl hbusy 15 hcmd, fun hcount hdrq => ?_, fun hcount hdrq => ?_⟩,
    ⟨_, exec_goto hfault _ _, finish_writeTrackIndex hl hbusy hcmd 13⟩⟩
  · exact goto_completes_reporting hbusy (by rw [hcmd]; decide)
      (hrun.trans (onWriteTrackDrq_of_lost (s := s.entering .writeTrackDrq) hcount hdrq))
  · have hpreset := (s.onChain_entering .writeTrackDrq).withFdc (update := Fdc.formatPreset) fun _ _ _ => rfl
    rw [State.goto_zero_busy hbusy, hrun,
      onWriteTrackDrq_of_supplied (s := s.entering .writeTrackDrq) hcount hdrq]
    exact writeTrackBegins_of_onChain hpreset (finish_writeTrackIndex
      (s := (s.entering .writeTrackDrq).withFdc (s.entering .writeTrackDrq).fdc.formatPreset) hl hbusy hcmd 12)

/-- Settles O39: before the last slot the pending CRC byte decides whether the Host's byte was consumed. -/
theorem writeTrackSlot : Obligations.WriteTrackSlot := by
  unfold Obligations.WriteTrackSlot
  intro s hfault hbusy hl hcmd hmore
  have hgoes : writeSlotGoes s (s.goto .writingTrack 0) := finish_writingTrack hl hbusy hcmd 14
  unfold writeSlotGoes at hgoes
  refine ⟨_, exec_goto hfault _ _, fun lo hpending => ?_, fun hpending => ?_⟩ <;> rw [hpending] at hgoes <;>
    exact (ite_prop_iff_and.1 hgoes).1 hmore

/-- Settles O40: the commit cuts the current track, and the last slot writes its byte, commits and completes. -/
theorem writeTrackCommit : Obligations.WriteTrackCommit := by
  unfold Obligations.WriteTrackCommit
  refine ⟨fun s => State.wtCommit_of_none, fun s n m T => State.wtCommit_track, fun s hfault hbusy hl hcmd hlast => ?_⟩
  have hgoes : writeSlotGoes s (s.goto .writingTrack 0) := finish_writingTrack hl hbusy hcmd 14
  unfold writeSlotGoes at hgoes
  refine ⟨_, exec_goto hfault _ _, fun lo hpending => ?_, fun hpending => ?_⟩ <;> rw [hpending] at hgoes <;>
    exact (ite_prop_iff_and.1 hgoes).2 (Nat.not_lt.2 hlast)

end Sys2Proof.Machine
end

section
/-! PROOFS. Force Interrupt: what it cuts off, the arms it sets, and its whole next state (R300 to R305). -/

namespace Sys2Proof.Machine

/-! ### The bits of the command byte (R116) -/

theorem byteForceInterrupt_kind (i3 i2 i1 i0 : Bool) : kindOf (byteForceInterrupt i3 i2 i1 i0) = .forceInterrupt := by
  revert i3 i2 i1 i0
  decide

theorem byteForceInterrupt_bits (i3 i2 i1 i0 : Bool) :
    (byteForceInterrupt i3 i2 i1 i0).getLsbD 3 = i3 ∧ (byteForceInterrupt i3 i2 i1 i0).getLsbD 2 = i2 ∧
      (byteForceInterrupt i3 i2 i1 i0).getLsbD 1 = i1 ∧ (byteForceInterrupt i3 i2 i1 i0).getLsbD 0 = i0 := by
  revert i3 i2 i1 i0
  decide

/-! ### The pulse set -/

/-- Expiring two optional handles one after the other expires both (R144). -/
theorem expiredAt_expiredAt (ps : List Pulse) (a b : Option Nat) :
    expiredAt (expiredAt ps a none) b none = expiredAt ps a b := by
  unfold expiredAt
  rw [List.map_map]
  refine List.map_congr_left fun e _ => ?_
  by_cases ha : a = some e.handle <;> simp [ha]

/-! ### The abort of a Write Track (R293, R301) -/

/-- The drives after an abort are fixed by the track under the head, the cursor and the new index. -/
theorem State.wtAbort_drives_congr {s u : State} (hcfg : u.cfg = s.cfg) (hdrives : u.drives = s.drives)
    (hsel : u.fdc.selDrive = s.fdc.selDrive) (hside : u.fdc.side = s.fdc.side) (hcursor : u.fdc.cursor = s.fdc.cursor)
    (hnew : u.fdc.newIndex = s.fdc.newIndex) : u.wtAbort.drives = s.wtAbort.drives := by
  have hdrive : u.drive = s.drive := funext fun n => congrArg (·[n]) hdrives
  have hcur : u.curTrack = s.curTrack := State.curTrack_congr hdrives hsel hside
  cases hT : s.curTrack with
  | none => rw [State.wtAbort_of_none hT, State.wtAbort_of_none (hcur.trans hT), hdrives]
  | some T =>
    obtain ⟨n, m, hn, hm, -⟩ := State.curTrack_eq_some hT
    have hmu : (u.drive n).medium = some m := hdrive ▸ hm
    rw [State.wtAbort_of_some hT, State.wtAbort_of_some (hcur.trans hT), State.setCurTrack_eq_withTrack _ hn hm hT,
      State.setCurTrack_eq_withTrack _ (hsel.trans hn) hmu (hcur.trans hT)]
    simp only [State.withTrack, hdrive, hdrives, hcfg, hcursor, hnew, hside]

/-- Replacing the current track takes no medium out of its drive, so the ready line stays. -/
theorem State.setCurTrack_ready (s : State) (T : Track) (c : Bool) : (s.setCurTrack T c).ready = s.ready := by
  rcases s.setCurTrack_cases T c with h | ⟨n, m, hn, hm, h⟩
  · rw [h]
  · rw [h]
    simp [State.ready, State.drive_setDrive, hn, hm]

/-- The drives change only when a Write Track is cut short. -/
theorem State.abortIfWriting_drives (s : State) :
    (s.fdc.busy = true ∧ s.fdc.cmd = .writeTrack ∧ s.fdc.op = .writingTrack →
      s.abortIfWriting.drives = s.wtAbort.drives) ∧
    (¬ (s.fdc.busy = true ∧ s.fdc.cmd = .writeTrack ∧ s.fdc.op = .writingTrack) →
      s.abortIfWriting.drives = s.drives) := by
  unfold State.abortIfWriting
  exact ⟨fun h => by rw [if_pos h], fun h => by rw [if_neg h]⟩

theorem State.abortIfWriting_drives_busy {s : State} (hbusy : s.fdc.busy = true) : s.abortIfWriting.drives =
    if s.fdc.cmd = .writeTrack ∧ s.fdc.op = .writingTrack then s.wtAbort.drives else s.drives := by
  unfold State.abortIfWriting
  rw [apply_ite State.drives]
  simp only [hbusy, true_and]

theorem State.abortIfWriting_ready (s : State) : s.abortIfWriting.ready = s.ready := by
  unfold State.abortIfWriting State.wtAbort
  split_ifs
  · split
    · exact s.setCurTrack_ready _ _
    · rfl
  · rfl

/-! ### What is cut off (R301, R305) -/

/-- Everything terminate does (R301). -/
theorem State.terminate_eq (s : State) (prevCmd : CmdKind) : s.terminate prevCmd = { s with
    clk := { s.clk with pulses := expiredAt s.clk.pulses s.fdc.cmdPulse none }
    drives := if prevCmd = .writeTrack ∧ s.fdc.op = .writingTrack then s.wtAbort.drives else s.drives
    fdc := { s.fdc with cmdPulse := none, busy := false, op := .opDone } } := by
  unfold State.terminate
  dsimp only
  rw [State.expireOpt_eq]
  split_ifs with hwriting
  · have hdrives : State.drives (State.wtAbort { s with
        clk := { s.clk with pulses := expiredAt s.clk.pulses s.fdc.cmdPulse none } }) = s.wtAbort.drives :=
      State.wtAbort_drives_congr rfl rfl rfl rfl rfl rfl
    rw [State.wtAbort_shape, hdrives]
    rfl
  · rfl

/-- `s` with the byte `b` of a Force Interrupt accepted and the running command cut off, or the Type I layout shown, before
the new conditions of `b` take effect (R300, R301, R305). -/
def State.interrupted (s : State) (b : Byte) : State :=
  { s with
    inUnit := true
    drives := s.abortIfWriting.drives
    clk := { s.clk with
      pulses := expiredAt s.clk.pulses s.fdc.indexPulse (if s.fdc.busy then s.fdc.cmdPulse else none) }
    fdc := { s.fdc with
      cr := b, cmd := .forceInterrupt, busy := false
      op := if s.fdc.busy then .opDone else s.fdc.op
      cmdPulse := if s.fdc.busy then none else s.fdc.cmdPulse
      statusMode := if s.fdc.busy then s.fdc.statusMode else .typeI
      intrq := false, indexPulse := none, armI0 := false, armI1 := false } }

/-- The first act of an accepted Force Interrupt leaves the interrupted state. -/
theorem State.interrupted_eq (s : State) {b : Byte} (hkind : kindOf b = .forceInterrupt) :
    (let u := ({ s with inUnit := true } : State).acceptCommand b
    if u.fdc.busy then u.terminate s.fdc.cmd else u.withFdc { u.fdc with statusMode := .typeI }) = s.interrupted b := by
  have habort : (({ s with inUnit := true } : State).acceptCommand b).wtAbort.drives = s.wtAbort.drives := by
    rw [State.acceptCommand_eq]
    exact State.wtAbort_drives_congr rfl rfl rfl rfl rfl rfl
  unfold State.interrupted
  dsimp only
  cases hbusy : s.fdc.busy with
  | true =>
    rw [State.terminate_eq, habort, State.acceptCommand_eq, hkind, State.abortIfWriting_drives_busy hbusy]
    dsimp only
    rw [if_pos hbusy, expiredAt_expiredAt]
    rfl
  | false =>
    rw [State.acceptCommand_eq, hkind, s.abortIfWriting_drives.2 fun h => Bool.false_ne_true (hbusy.symm.trans h.1)]
    dsimp only
    rw [if_neg (Bool.eq_false_iff.1 hbusy)]
    unfold State.withFdc
    rw [hbusy]
    rfl

theorem State.interrupted_ready (s : State) (b : Byte) : (s.interrupted b).ready = s.ready := by
  rw [← s.abortIfWriting_ready, State.abortIfWriting_shape]
  rfl

/-! ### The new conditions (R300, R303, R304) -/

/-- What the condition bits do once the running command is cut off (R300, R303, R304). -/
def State.setConditions (s : State) (i3 i2 i1 i0 : Bool) : State :=
  let latched := if i3 then s.latchIntrq else s
  let armed := if i2 then latched.armIndex else latched
  { (armed.withFdc { armed.fdc with armI1 := i1, armI0 := i0 }) with lastReady := armed.ready }

theorem State.forceInterrupt_eq (s : State) (prevCmd : CmdKind) : s.forceInterrupt prevCmd =
    (if s.fdc.busy then s.terminate prevCmd else s.withFdc { s.fdc with statusMode := .typeI }).setConditions
      (s.fdc.cr.getLsbD 3) (s.fdc.cr.getLsbD 2) (s.fdc.cr.getLsbD 1) (s.fdc.cr.getLsbD 0) := rfl

/-- The controller with the conditions I3, I1 and I0 in effect: INTRQ latched, which releases a held Host, and the ready edges
armed (R300, R304, R456). -/
def Fdc.withConditions (f : Fdc) (i3 i1 i0 : Bool) : Fdc :=
  { f with intrq := f.intrq || i3, waitReq := f.waitReq && !i3, armI1 := i1, armI0 := i0 }

theorem State.latchIntrq_ite (s : State) (i3 : Bool) : (if i3 then s.latchIntrq else s) =
    s.withFdc { s.fdc with intrq := s.fdc.intrq || i3, waitReq := s.fdc.waitReq && !i3 } := by
  cases i3 <;> simp [State.withFdc, State.latchIntrq]

/-- Without I2 no pulse is registered. -/
theorem State.setConditions_false (s : State) (i3 i1 i0 : Bool) : s.setConditions i3 false i1 i0 =
    { s with fdc := s.fdc.withConditions i3 i1 i0, lastReady := s.ready } := by
  unfold State.setConditions
  rw [State.latchIntrq_ite]
  rfl

/-- With I2 the periodic IndexIrq is registered under the next fresh handle (R303). -/
theorem State.setConditions_true {s : State} (hl : legalConfig s.cfg = true) (i3 i1 i0 : Bool) :
    s.setConditions i3 true i1 i0 =
      { s with fdc := s.armIndex.fdc.withConditions i3 i1 i0, clk := s.armIndex.clk, lastReady := s.ready } := by
  unfold State.setConditions
  rw [State.latchIntrq_ite, State.armIndex_eq hl]
  dsimp only
  rw [if_pos rfl, State.armIndex_eq (by exact hl)]
  rfl

theorem exec_forceInterrupt {s : State} (hfault : s.fault = none) (i3 i2 i1 i0 : Bool) :
    exec (.forceInterrupt i3 i2 i1 i0) s =
      .next ((s.interrupted (byteForceInterrupt i3 i2 i1 i0)).setConditions i3 i2 i1 i0) := by
  have hkind := byteForceInterrupt_kind i3 i2 i1 i0
  obtain ⟨h3, h2, h1, h0⟩ := byteForceInterrupt_bits i3 i2 i1 i0
  have hcr (b : Byte) : (({ s with inUnit := true } : State).acceptCommand b).fdc.cr = b := by rw [State.acceptCommand_fdc]
  rw [exec_of_commandByte rfl, exec_wrCommand hfault, State.writeCommand_accepted (.inr hkind), hkind, State.startCommand,
    CmdKind.type]
  dsimp only
  rw [State.forceInterrupt_eq, s.interrupted_eq hkind, hcr, h3, h2, h1, h0]

/-- Settles O42: the first act cuts the running command off, the second sets the new conditions; only I2 registers a pulse. -/
theorem forceInterrupt : Obligations.ForceInterrupt := by
  unfold Obligations.ForceInterrupt
  intro i3 i2 i1 i0 s hfault hl
  have habort := s.abortIfWriting_drives
  have hready := s.interrupted_ready (byteForceInterrupt i3 i2 i1 i0)
  refine ⟨_, exec_forceInterrupt hfault i3 i2 i1 i0, ?_⟩
  cases i2 with
  | false =>
    rw [State.setConditions_false, hready]
    exact ⟨rfl, fun _ => ⟨rfl, rfl⟩, nofun, habort.1, habort.2, rfl⟩
  | true =>
    rw [State.setConditions_true (by exact hl), hready, State.armIndex_eq (by exact hl)]
    exact ⟨rfl, nofun, fun _ => ⟨_, _, Nat.le_refl _, Nat.lt_succ_self _, rfl, rfl⟩, habort.1, habort.2, rfl⟩

end Sys2Proof.Machine
end

section
/-! PROOFS. The Operator's actions: what each leaves of a drive, when they happen, and the descriptor-level write (R306, R336,
R367 to R375). -/

namespace Sys2Proof.Machine

/-! ### An action on a present and on an absent drive (R64, assumption 25) -/

theorem State.operate_of_present {s : State} {a : OperatorAction} {n : Fin 4} (ha : a.drive = some n)
    (hn : n.val < s.cfg.numDrives) : s.operate a = s.perform a := by
  have hpresent : a.present s.cfg = true := by
    unfold OperatorAction.present
    rw [ha]
    exact decide_eq_true hn
  rw [State.operate, if_pos hpresent]

theorem State.operate_of_absent {s : State} {a : OperatorAction} {n : Fin 4} (ha : a.drive = some n)
    (hn : s.cfg.numDrives ≤ n.val) : s.operate a = .refused .noSuchDrive := by
  have habsent : a.present s.cfg = false := by
    unfold OperatorAction.present
    rw [ha]
    exact decide_eq_false (Nat.not_lt.2 hn)
  rw [State.operate, if_neg (Bool.eq_false_iff.1 habsent)]

/-! ### A medium put in or taken out (R306, R375) -/

/-- `t` is `s` with `medium` in drive `n` and the ready edge that follows (R306, R375). -/
def State.putsMedium (s : State) (n : Fin 4) (medium : Option Medium) (t : State) : Prop :=
  let edge := (s.fdc.armI1 && s.lastReady && !t.ready) || (s.fdc.armI0 && !s.lastReady && t.ready)
  t = { s with
    drives := s.drives.set n { (s.drive n) with medium := medium }
    lastReady := t.ready
    fdc := { s.fdc with intrq := s.fdc.intrq || edge, waitReq := s.fdc.waitReq && !edge } }

theorem State.readyEdge_ready (s : State) : s.readyEdge.ready = s.ready := by
  rw [State.readyEdge_eq]
  rfl

theorem State.setMedium_putsMedium (s : State) (n : Fin 4) (medium : Option Medium) :
    s.putsMedium n medium (s.setMedium n medium).readyEdge := by
  unfold State.putsMedium
  rw [State.readyEdge_ready, State.readyEdge_eq]
  rfl

/-! ### A medium edited in place (R372) -/

/-- On an empty drive an edit changes nothing. -/
theorem State.editMedium_eq (s : State) (n : Fin 4) (f : Medium → Medium) : s.editMedium n f =
    { s with drives := s.drives.set n { (s.drive n) with medium := (s.drive n).medium.map f } } := by
  unfold State.editMedium
  cases hm : (s.drive n).medium with
  | some m => rfl
  | none =>
    have hsame : { s.drive n with medium := none } = s.drive n := by rw [← hm]
    rw [Option.map_none, hsame]
    simp [State.drive]

/-! ### The descriptor-level write (R336) -/

theorem SectorDescriptor.sameId_iff {x d : SectorDescriptor} :
    x.sameId d = true ↔ x.track = d.track ∧ x.side = d.side ∧ x.sector = d.sector := by
  simp [SectorDescriptor.sameId, and_assoc]

/-- The first descriptor with the ID fields is the one replaced (assumption 14). -/
theorem replaceDescriptor_append {d x : SectorDescriptor} {before : List SectorDescriptor}
    (behind : List SectorDescriptor) (hx : x.sameId d = true) (hbefore : ∀ y ∈ before, ¬ y.sameId d = true) :
    replaceDescriptor d (before ++ x :: behind) = some (before ++ d :: behind) := by
  induction before with
  | nil => exact if_pos hx
  | cons y ys ih =>
    obtain ⟨hy, hys⟩ := List.forall_mem_cons.1 hbefore
    rw [List.cons_append, replaceDescriptor, if_neg hy, ih hys]
    rfl

/-- Replacing a track that exists replaces its place in the list (R360). -/
theorem Medium.setTrack_of_track {m : Medium} {t : Nat} {side : Bool} {T : Track} (h : m.track t side = some T)
    (T' : Track) : m.setTrack t side T' = { m with tracks := m.tracks.set (t * m.sides + side.toNat) T' } := by
  unfold Medium.track at h
  unfold Medium.setTrack
  unfold Medium.trackIndex at h ⊢
  split_ifs at h ⊢
  rfl

/-- A descriptor-level write whose re-encoding fits replaces the track and marks the medium changed (R336, R373). -/
theorem State.writeDescriptor_ok {s : State} {n : Fin 4} {m : Medium} {t : Nat} {side : Bool} {T T' : Track}
    {d : SectorDescriptor} {ds : List SectorDescriptor} (hm : (s.drive n).medium = some m) (hT : m.track t side = some T)
    (hds : replaceDescriptor d (decodeTrack s.cfg T m.singleByte) = some ds)
    (hT' : encodeTrack s.cfg ds d.dd (m.declLen - s.cfg.trackHdr) m.singleByte = some T') :
    s.writeDescriptor n t side d = .ok (s.withTrack n { m with changed := true } t side T') := by
  have hrewrite : rewriteTrack s.cfg m T d = .ok T' := by simp only [rewriteTrack, hds, hT']
  simp only [State.writeDescriptor, hm, hT, hrewrite, Medium.setTrack_of_track hT]
  rfl

/-! ### When an action happens (R369, R373) -/

/-- A save waits while a command runs (R369). -/
theorem OperatorAction.allowed_eq_true_iff {a : OperatorAction} {s : State} :
    a.allowed s = true ↔ ∀ n, a = .save n → s.fdc.op = .opDone := by
  cases a <;> simp [OperatorAction.allowed]

/-- A due action that need not wait is the next step between units (R7, R373). -/
theorem step_of_operator {s : State} {a : OperatorAction} {due : Nat} {rest : List (Nat × OperatorAction)}
    (hop : s.operator = (due, a) :: rest) (hfault : s.fault = none) (hdue : due ≤ s.clk.ticks) (hunit : s.inUnit = false)
    (hallowed : a.allowed s = true) : step s = ({ s with operator := rest } : State).operate a := by
  have hnow : s.operatorNow = some (a, { s with operator := rest }) := by
    simp [State.operatorNow, hop, hdue, hunit, hallowed]
  simp [step, State.nextEvent, hfault, hnow]

/-- A save at the head of the list waits for the running command (R369). -/
theorem State.operatorNow_of_save {s : State} {n : Fin 4} {due : Nat} {rest : List (Nat × OperatorAction)}
    (hop : s.operator = (due, .save n) :: rest) (hrunning : s.fdc.op ≠ .opDone) : s.operatorNow = none := by
  refine s.operatorNow_eq_none_iff.2 fun t a rest' hop' _ _ => ?_
  cases hop.symm.trans hop'
  exact Bool.eq_false_iff.2 fun hallowed => hrunning (OperatorAction.allowed_eq_true_iff.1 hallowed n rfl)

/-- Settles O52: mount, load and eject put a medium in or take it out and follow the ready edge; the other actions edit the
medium in place; an action is carried out when it is due and need not wait. -/
theorem mountAndEject : Obligations.MountAndEject := by
  unfold Obligations.MountAndEject
  refine ⟨fun n s hn => ?_, fun a n s => State.operate_of_absent, fun a due rest s hop => ⟨?_,
    fun hfault hdue hunit hidle => step_of_operator hop hfault hdue hunit (OperatorAction.allowed_eq_true_iff.2 hidle)⟩⟩
  · have hact {a : OperatorAction} (ha : a.drive = some n) : s.operate a = s.perform a := State.operate_of_present ha hn
    have hput := s.setMedium_putsMedium n
    have hedit := s.editMedium_eq n
    refine ⟨fun m hwf => ⟨_, (hact rfl).trans (if_pos hwf), hput _⟩, ⟨_, hact rfl, hput _⟩,
      fun path file m hload => ⟨_, ?_, hput _⟩, fun path file e hload => ⟨_, ?_, hput _⟩,
      fun b => (hact rfl).trans (congrArg _ (hedit _)), fun path => (hact rfl).trans (congrArg _ (hedit _)),
      fun m hm => ?_, fun m t side T T' d x before behind hm hT hdecode hx hbefore hencode => ?_⟩
    · rw [hact rfl, State.perform, hload]
      rfl
    · rw [hact rfl, State.perform, hload]
      rfl
    · rw [hact rfl, State.perform, State.save, hm]
      rfl
    · have hreplace : replaceDescriptor d (decodeTrack s.cfg T m.singleByte) = some (before ++ d :: behind) := by
        rw [hdecode]
        exact replaceDescriptor_append behind (SectorDescriptor.sameId_iff.2 hx)
          fun y hy hid => hbefore y hy (SectorDescriptor.sameId_iff.1 hid)
      rw [hact rfl, State.perform, State.writeDescriptor_ok hm hT hreplace hencode]
      rfl
  · rintro n rfl hrunning
    exact State.operatorNow_of_save hop hrunning

end Sys2Proof.Machine
end

section
/-! PROOFS. The CRC as a linear shift register: the residue over a stored pair (R321, R322). -/

namespace Sys2Proof.Machine

/-! ### One bit of the register (R321) -/

theorem crcBit_zero (poly : Half) : crcBit poly 0 = 0 := by simp [crcBit]

/-- The register is linear, whatever the generator. -/
theorem crcBit_xor (poly a b : Half) : crcBit poly (a ^^^ b) = crcBit poly a ^^^ crcBit poly b := by
  unfold crcBit
  rw [BitVec.getLsbD_xor, BitVec.shiftLeft_xor_distrib]
  cases a.getLsbD 15 <;> cases b.getLsbD 15
  · rfl
  · exact BitVec.xor_assoc _ _ _
  · show a <<< 1 ^^^ b <<< 1 ^^^ poly = a <<< 1 ^^^ poly ^^^ b <<< 1
    ac_rfl
  · show a <<< 1 ^^^ b <<< 1 = a <<< 1 ^^^ poly ^^^ (b <<< 1 ^^^ poly)
    rw [show a <<< 1 ^^^ poly ^^^ (b <<< 1 ^^^ poly) = a <<< 1 ^^^ b <<< 1 ^^^ (poly ^^^ poly) by ac_rfl]
    simp

/-- An odd generator loses nothing: the constant term tells whether the top bit was shifted out. -/
theorem crcBit_eq_zero_iff {poly x : Half} (hodd : poly.getLsbD 0 = true) : crcBit poly x = 0 ↔ x = 0 := by
  refine ⟨fun h => ?_, fun h => h ▸ crcBit_zero poly⟩
  unfold crcBit at h
  split_ifs at h with htop
  · have hbit := congrArg (BitVec.getLsbD · 0) h
    rw [BitVec.getLsbD_xor, hodd] at hbit
    simp at hbit
  · refine BitVec.eq_of_getLsbD_eq fun i hi => ?_
    rcases Nat.lt_or_eq_of_le (Nat.le_of_lt_succ hi) with hlt | rfl
    · have hbit : (x <<< 1).getLsbD (i + 1) = false := by rw [h]; simp
      rw [BitVec.getLsbD_shiftLeft] at hbit
      simpa [hi, Nat.succ_lt_succ hlt] using hbit
    · simpa using htop

/-! ### Several bits -/

theorem crcBit_iterate_xor (poly a b : Half) (n : Nat) :
    (crcBit poly)^[n] (a ^^^ b) = (crcBit poly)^[n] a ^^^ (crcBit poly)^[n] b := by
  induction n with
  | zero => rfl
  | succ n ih => simp only [Function.iterate_succ_apply', ih, crcBit_xor]

theorem crcBit_iterate_eq_zero_iff {poly x : Half} (hodd : poly.getLsbD 0 = true) (n : Nat) :
    (crcBit poly)^[n] x = 0 ↔ x = 0 := by
  induction n with
  | zero => rfl
  | succ n ih => rw [Function.iterate_succ_apply', crcBit_eq_zero_iff hodd, ih]

/-- While zeros leave at the top, the register only shifts. -/
theorem crcBit_iterate_of_high_zero (poly : Half) {x : Half} {n : Nat} (hn : n ≤ 16)
    (hx : ∀ i, 16 - n ≤ i → x.getLsbD i = false) : (crcBit poly)^[n] x = x <<< n := by
  induction n with
  | zero => simp
  | succ n ih =>
    have htop : (x <<< n).getLsbD 15 = false := by
      rw [BitVec.getLsbD_shiftLeft, hx (15 - n) (by omega)]
      simp
    rw [Function.iterate_succ_apply', ih (by omega) fun i hi => hx i (by omega), crcBit, htop, BitVec.shiftLeft_add]
    rfl

/-! ### Bytes and stored pairs (R321, R322) -/

theorem getLsbD_halfOf (hi lo : Byte) (i : Nat) :
    (halfOf hi lo).getLsbD i = if i < 8 then lo.getLsbD i else hi.getLsbD (i - 8) :=
  BitVec.getLsbD_append

theorem halfOf_extract (w : Half) : halfOf (w.extractLsb' 8 8) (w.extractLsb' 0 8) = w := by
  refine BitVec.eq_of_getLsbD_eq fun i hi => ?_
  rw [getLsbD_halfOf]
  split_ifs with hlow
  · simp [hlow]
  · have hback : 8 + (i - 8) = i := by omega
    simp [hback, show i - 8 < 8 by omega]

theorem crcUpdate_eq_iterate (poly c : Half) (v : Byte) :
    crcUpdate poly c v = (crcBit poly)^[8] (c ^^^ halfOf v 0) := rfl

/-- A pair enters the register as one 16-bit word. -/
theorem crcUpdate_crcUpdate (poly c : Half) (hi lo : Byte) :
    crcUpdate poly (crcUpdate poly c hi) lo = (crcBit poly)^[16] (c ^^^ halfOf hi lo) := by
  have hsplit : halfOf hi lo = halfOf hi 0 ^^^ halfOf 0 lo := by
    refine BitVec.eq_of_getLsbD_eq fun i _ => ?_
    rw [BitVec.getLsbD_xor]
    simp only [getLsbD_halfOf]
    split_ifs <;> simp
  have hshift : (crcBit poly)^[8] (halfOf 0 lo) = halfOf lo 0 := by
    rw [crcBit_iterate_of_high_zero poly (by decide)]
    · refine BitVec.eq_of_getLsbD_eq fun i hi => ?_
      rw [BitVec.getLsbD_shiftLeft, getLsbD_halfOf, getLsbD_halfOf]
      split_ifs <;> simp_all
    · intro i hi
      rw [getLsbD_halfOf, if_neg (by omega)]
      simp
  calc crcUpdate poly (crcUpdate poly c hi) lo
      = (crcBit poly)^[8] ((crcBit poly)^[8] (c ^^^ halfOf hi 0) ^^^ (crcBit poly)^[8] (halfOf 0 lo)) := by
        rw [crcUpdate_eq_iterate, crcUpdate_eq_iterate, hshift]
    _ = (crcBit poly)^[8] ((crcBit poly)^[8] (c ^^^ halfOf hi lo)) := by
        rw [← crcBit_iterate_xor, BitVec.xor_assoc, ← hsplit]
    _ = (crcBit poly)^[16] (c ^^^ halfOf hi lo) := (Function.iterate_add_apply _ 8 8 _).symm

theorem crcBytes_pair (poly seed : Half) (m : List Byte) (hi lo : Byte) :
    crcBytes poly seed (m ++ [hi, lo]) = (crcBit poly)^[16] (crcBytes poly seed m ^^^ halfOf hi lo) := by
  rw [crcBytes, List.foldl_append]
  exact crcUpdate_crcUpdate poly (crcBytes poly seed m) hi lo

/-- Settles O54: the pair enters as one word, which clears the register when it is the CRC; an odd generator takes no
other word to 0. -/
theorem crcResidue : Obligations.CrcResidue := by
  unfold Obligations.CrcResidue
  intro poly seed m c
  refine ⟨?_, fun hodd hi lo => ?_⟩
  · rw [crcBytes_pair, halfOf_extract, BitVec.xor_self]
    exact Function.iterate_fixed (crcBit_zero poly) 16
  · rw [crcBytes_pair, crcBit_iterate_eq_zero_iff hodd]
    exact BitVec.xor_eq_zero_iff.trans eq_comm

end Sys2Proof.Machine
end

section
/-! PROOFS. The round trip of the track codec: what an encoded track reads as, and what Decode makes of it (R326 to R335). -/

namespace Sys2Proof.Machine

/-! ### The raw bytes of an encoded track (R327, R330, R334) -/

/-- Raw byte `i` is a copy of logical byte `i / k`. -/
theorem getElem?_doubled {k : Nat} (hk : 0 < k) (bytes : List Byte) (i : Nat) : (doubled k bytes)[i]? = bytes[i / k]? := by
  induction bytes generalizing i with
  | nil => simp [doubled]
  | cons b rest ih =>
    rw [show doubled k (b :: rest) = List.replicate k b ++ doubled k rest from rfl]
    rcases Nat.lt_or_ge i k with hlt | hge
    · rw [List.getElem?_append_left (by simpa using hlt), Nat.div_eq_of_lt hlt]
      simp [hlt]
    · rw [List.getElem?_append_right (by simpa using hge), List.length_replicate, ih, Nat.div_eq_sub_div hk hge]
      rfl

/-- The padded buffer holds the copies of the logical bytes (R334). -/
theorem read_padded_of_lt {k : Nat} (hk : 0 < k) {bytes : List Byte} {i : Nat} {v : Byte} (pad : List Byte)
    (hi : i < k * bytes.length) (hv : bytes[i / k]? = some v) :
    (Memory.ofBytes 0 (doubled k bytes ++ pad)).read i = v := by
  rw [← Nat.zero_add i, Memory.read_ofBytes, List.getD_eq_getElem?_getD, List.getElem?_append_left (by rwa [length_doubled]),
    getElem?_doubled hk, hv, Option.getD_some]

/-- The padded buffer holds filler bytes from the logical bytes' end on (R334). -/
theorem read_padded_of_ge {k cap i : Nat} {bytes : List Byte} {filler : Byte} (hi : k * bytes.length ≤ i) (hcap : i < cap) :
    (Memory.ofBytes 0 (doubled k bytes ++ List.replicate (cap - (doubled k bytes).length) filler)).read i = filler := by
  rw [← length_doubled] at hi
  rw [← Nat.zero_add i, Memory.read_ofBytes, List.getD_eq_getElem?_getD, List.getElem?_append_right hi,
    List.getElem?_replicate, if_pos (by omega), Option.getD_some]

/-- The logical bytes `stream` stand on the track from its start on, `k` raw bytes apart, around its end if need be (R327). -/
def Track.Reads (T : Track) (k : Nat) (stream : List Byte) : Prop :=
  ∀ q v, stream[q]? = some v → T.data.read (k * q % T.len) = v

/-- The index entry of the ID mark at logical position `p` (R331, R332). -/
def idMarkEntry (dd singleByte : Bool) (p : Nat) : IdamEntry := { offset := entryStride dd singleByte * p, dd := dd }

/-- What Encode gives, when it is not refused (R330, R334). -/
theorem encodeTrack_eq_some {c : Config} {ds : List SectorDescriptor} {dd singleByte : Bool} {cap : Nat} {T : Track}
    (h : encodeTrack c ds dd cap singleByte = some T) :
    let k := entryStride dd singleByte
    let logical := gap4a dd ++ (layoutSectors c (gap4a dd).length ds).1
    (∀ d ∈ ds, d.dd = dd ∧ d.payload.length = sectorLength d.sizeCode) ∧ k * logical.length ≤ cap ∧
    T = { len := cap
          data := Memory.ofBytes 0 (doubled k logical ++ List.replicate (cap - (doubled k logical).length) (gapByte dd))
          index := (layoutSectors c (gap4a dd).length ds).2.map (idMarkEntry dd singleByte) } := by
  unfold encodeTrack at h
  dsimp only at h
  split_ifs at h with hfit
  cases h
  simp only [Bool.and_eq_true, decide_eq_true_eq, List.all_eq_true, beq_iff_eq, payloadOk] at hfit
  exact ⟨hfit.1, (Nat.mul_le_mul_left _ hfit.2).trans (Nat.mul_div_le _ _), rfl⟩

theorem getElem?_gap4a {dd : Bool} {i : Nat} (h : i < (gap4a dd).length) : (gap4a dd)[i]? = some (gapByte dd) := by
  rw [gap4a, List.length_replicate] at h
  rw [gap4a, List.getElem?_replicate, if_pos h]

/-- An encoded track reads as gap 4a and its sectors, and then as gap bytes for the length of gap 4a at least: the padding,
or gap 4a again past the track's end. -/
theorem encodeTrack_reads {c : Config} {ds : List SectorDescriptor} {dd singleByte : Bool} {cap : Nat} {T : Track}
    (h : encodeTrack c ds dd cap singleByte = some T) :
    T.Reads (entryStride dd singleByte) (gap4a dd ++ (layoutSectors c (gap4a dd).length ds).1 ++ gap4a dd) := by
  obtain ⟨-, hfit, rfl⟩ := encodeTrack_eq_some h
  have hk := entryStride_pos dd singleByte
  generalize entryStride dd singleByte = k at hfit hk ⊢
  have hgap : ∀ i < (gap4a dd).length, (gap4a dd ++ (layoutSectors c (gap4a dd).length ds).1)[i]? = some (gapByte dd) :=
    fun i hi => (List.getElem?_append_left hi).trans (getElem?_gap4a hi)
  have hle : (gap4a dd).length ≤ (gap4a dd ++ (layoutSectors c (gap4a dd).length ds).1).length := by simp
  generalize gap4a dd ++ (layoutSectors c (gap4a dd).length ds).1 = logical at hfit hgap hle ⊢
  intro q v hv
  dsimp only
  rcases Nat.lt_or_ge q logical.length with hq | hq
  · have hlt : k * q < k * logical.length := (Nat.mul_lt_mul_left hk).2 hq
    rw [List.getElem?_append_left hq] at hv
    rw [Nat.mod_eq_of_lt (hlt.trans_le hfit)]
    exact read_padded_of_lt hk _ hlt (by rw [Nat.mul_div_cancel_left q hk, hv])
  · rw [List.getElem?_append_right hq] at hv
    obtain ⟨hin, -⟩ := List.getElem?_eq_some_iff.1 hv
    rw [getElem?_gap4a hin] at hv
    have hge : k * logical.length ≤ k * q := Nat.mul_le_mul_left k hq
    have hlt : k * q < k * logical.length + k * (gap4a dd).length := by
      rw [← Nat.mul_add]
      exact (Nat.mul_lt_mul_left hk).2 (by omega)
    have hgaps : k * (gap4a dd).length ≤ k * logical.length := Nat.mul_le_mul_left k hle
    rcases Nat.lt_or_ge (k * q) cap with hcap | hcap
    · rw [Nat.mod_eq_of_lt hcap, read_padded_of_ge hge hcap]
      exact Option.some.inj hv
    · have hwrap : k * q % cap = k * q - cap := by
        rw [Nat.mod_eq_sub_mod hcap, Nat.mod_eq_of_lt (by omega)]
      rw [hwrap]
      exact read_padded_of_lt hk _ (by omega) ((hgap _ (Nat.div_lt_of_lt_mul (by omega))).trans hv)

/-! ### The bytes of one sector (R327) -/

/-- The entry's logical bytes, its mark first, are `bytes` as far as these go (R327). -/
def SectorReads (T : Track) (singleByte : Bool) (e : IdamEntry) (bytes : List Byte) : Prop :=
  ∀ j v, bytes[j]? = some v → sectorByte T singleByte e j = v

theorem Track.Reads.sectorReads {T : Track} {dd singleByte : Bool} {before after : List Byte}
    (h : T.Reads (entryStride dd singleByte) (before ++ after)) :
    SectorReads T singleByte (idMarkEntry dd singleByte before.length) after := by
  intro j v hv
  simp only [sectorByte, idMarkEntry, Nat.mul_comm j, ← Nat.mul_add]
  refine h _ v ?_
  rwa [List.getElem?_append_right (Nat.le_add_right _ _), Nat.add_sub_cancel_left]

section Sector
variable {T : Track} {singleByte : Bool} {e : IdamEntry}

theorem SectorReads.byte {before after : List Byte} {v : Byte} (h : SectorReads T singleByte e (before ++ v :: after)) :
    sectorByte T singleByte e before.length = v :=
  h _ v (by simp)

theorem SectorReads.bytes {before field after : List Byte} (h : SectorReads T singleByte e (before ++ (field ++ after))) :
    sectorBytes T singleByte e before.length field.length = field := by
  refine List.ext_getElem (by simp [sectorBytes]) fun i hi hi' => ?_
  simp only [sectorBytes, List.getElem_map, List.getElem_range]
  refine h _ _ ?_
  rw [List.getElem?_append_right (Nat.le_add_right _ _), Nat.add_sub_cancel_left, List.getElem?_append_left hi',
    List.getElem?_eq_getElem hi']

/-! ### Stored CRCs (R322, R333) -/

theorem bne_inverted (crc : Half) (inverted : Bool) :
    (crc != if inverted then crc ^^^ 0xFFFF else crc) = inverted := by
  cases inverted with
  | false => exact bne_self_eq_false crc
  | true =>
    refine bne_iff_ne.2 fun heq => ?_
    have hzero := congrArg (crc ^^^ ·) heq
    simp at hzero

/-- A reader's CRC test finds what the error flag says (R333). -/
theorem SectorReads.crc_bne {before after : List Byte} {crc : Half} {inverted : Bool}
    (h : SectorReads T singleByte e (before ++ (storedCrcBytes crc inverted ++ after))) :
    (crc != storedCrc T singleByte e before.length) = inverted := by
  have hpair : storedCrc T singleByte e before.length = if inverted then crc ^^^ 0xFFFF else crc := by
    refine Eq.trans ?_ (halfOf_extract _)
    refine congrArg₂ halfOf h.byte (h _ _ ?_)
    rw [List.getElem?_append_right (Nat.le_add_right _ _), Nat.add_sub_cancel_left]
    rfl
  rw [hpair, bne_inverted]

/-! ### The search for the data mark (R328) -/

theorem isMarkAt_of_notMark {k : Nat} (h : isDataMark (sectorByte T singleByte e k) = false) :
    isMarkAt T singleByte e k = false := by
  rw [isMarkAt, h, Bool.false_and]

/-- No mark value in the window: no data mark. -/
theorem markPosition_eq_none {c : Config} {before after : List Byte} (h : SectorReads T singleByte e (before ++ after))
    (hbefore : before.length = 7) (hafter : damLimit c e.dd ≤ after.length)
    (hno : ∀ v ∈ after.take (damLimit c e.dd), isDataMark v = false) : markPosition c T singleByte e = none := by
  refine List.find?_eq_none.2 fun k hk => ?_
  obtain ⟨j, hj, rfl⟩ := List.mem_map.1 hk
  rw [List.mem_range] at hj
  have hin : j < after.length := by omega
  have hbyte : sectorByte T singleByte e (j + 7) = after[j] := by
    refine h _ _ ?_
    rw [List.getElem?_append_right (by omega), hbefore, Nat.add_sub_cancel, List.getElem?_eq_getElem hin]
  rw [Bool.not_eq_true]
  refine isMarkAt_of_notMark (hbyte ▸ hno _ (List.mem_take_iff_getElem.2 ⟨j, by omega, rfl⟩))

/-- A mark value after the bytes that stand before a mark is the sector's data mark. -/
theorem isMarkAt_of_syncRun {before after : List Byte} {mark : Byte}
    (h : SectorReads T singleByte e (before ++ (syncRun e.dd ++ mark :: after))) (hmark : isDataMark mark = true) :
    isMarkAt T singleByte e (before.length + (syncRun e.dd).length) = true := by
  have hbyte : sectorByte T singleByte e (before.length + (syncRun e.dd).length) = mark := by
    rw [← List.append_assoc] at h
    rw [← List.length_append, h.byte]
  rw [isMarkAt, hbyte, hmark, Bool.true_and]
  cases hdd : e.dd with
  | false => rfl
  | true =>
    rw [hdd, show syncRun true = List.replicate 12 0x00 ++ [0xA1, 0xA1, 0xA1] from rfl, List.append_assoc,
      ← List.append_assoc before] at h
    have hsync := h.bytes
    rw [List.length_append, List.length_replicate] at hsync
    exact beq_iff_eq.2 hsync

/-- The first mark in the window: after a gap and the bytes that stand before a mark, none of which is a mark value. -/
theorem markPosition_eq_some {c : Config} {before gap after : List Byte} {mark : Byte}
    (h : SectorReads T singleByte e (before ++ (gap ++ (syncRun e.dd ++ mark :: after)))) (hbefore : before.length = 7)
    (hreach : (gap ++ syncRun e.dd).length < damLimit c e.dd) (hno : ∀ v ∈ gap ++ syncRun e.dd, isDataMark v = false)
    (hmark : isDataMark mark = true) :
    markPosition c T singleByte e = some ((gap ++ syncRun e.dd).length + 7) := by
  rw [markPosition, List.find?_map, Option.map_eq_some_iff]
  refine ⟨_, List.find?_range_eq_some.2 ⟨?_, List.mem_range.2 hreach, fun j hj => ?_⟩, rfl⟩
  · have hat := isMarkAt_of_syncRun (before := before ++ gap) (by rwa [List.append_assoc]) hmark
    rwa [← List.length_append, List.append_assoc, List.length_append, hbefore, Nat.add_comm] at hat
  · have hbyte : sectorByte T singleByte e (j + 7) = (gap ++ syncRun e.dd)[j] := by
      refine h _ _ ?_
      rw [← List.append_assoc gap, List.getElem?_append_right (by omega), hbefore, Nat.add_sub_cancel,
        List.getElem?_append_left hj, List.getElem?_eq_getElem hj]
    rw [Function.comp_apply, isMarkAt_of_notMark (hbyte ▸ hno _ (List.getElem_mem hj))]
    rfl

/-! ### Decode of one sector (R328, R331 to R333) -/

theorem isDataMark_toByte (dam : DataMark) : isDataMark dam.toByte = true := by cases dam <;> rfl

theorem DataMark.ofByte_toByte (dam : DataMark) : DataMark.ofByte dam.toByte = some dam := by cases dam <;> rfl

/-- The address field as Decode reads it. -/
theorem SectorReads.idField {c : Config} {d : SectorDescriptor} {rest : List Byte}
    (h : SectorReads T singleByte e (0xFE :: (idField c d ++ rest))) :
    (sectorByte T singleByte e 1 = d.track ∧ sectorByte T singleByte e 2 = d.side ∧
      sectorByte T singleByte e 3 = d.sector ∧ sectorByte T singleByte e 4 = d.sizeCode) ∧
    (crcBytes c.crcPoly (seedOf c d.dd) (0xFE :: sectorBytes T singleByte e 1 4) != storedCrc T singleByte e 5) =
      d.idCrcErr := by
  have hid : sectorBytes T singleByte e 1 4 = [d.track, d.side, d.sector, d.sizeCode] :=
    SectorReads.bytes (before := [0xFE]) (field := [d.track, d.side, d.sector, d.sizeCode]) h
  refine ⟨⟨h 1 _ rfl, h 2 _ rfl, h 3 _ rfl, h 4 _ rfl⟩, ?_⟩
  rw [hid]
  exact SectorReads.crc_bne (before := [0xFE, d.track, d.side, d.sector, d.sizeCode]) h

theorem decodeOne_of_markPosition_none {c : Config} {d : SectorDescriptor} {rest : List Byte} (hdd : e.dd = d.dd)
    (h : SectorReads T singleByte e (0xFE :: (Machine.idField c d ++ rest)))
    (hpos : markPosition c T singleByte e = none) :
    decodeOne c T singleByte e = { d with dam := none, dataCrcErr := false, payload := [] } := by
  obtain ⟨⟨htrack, hside, hsector, hsize⟩, hcrc⟩ := h.idField
  simp only [decodeOne, hpos, htrack, hside, hsector, hsize, hdd, hcrc]

theorem decodeOne_of_markPosition_some {c : Config} {d : SectorDescriptor} {rest payload : List Byte} {k : Nat} {mark : Byte}
    (hdd : e.dd = d.dd) (h : SectorReads T singleByte e (0xFE :: (Machine.idField c d ++ rest)))
    (hpos : markPosition c T singleByte e = some k) (hmark : sectorByte T singleByte e k = mark)
    (hpayload : sectorBytes T singleByte e (k + 1) (sectorLength d.sizeCode) = payload) :
    decodeOne c T singleByte e = { d with
      dam := DataMark.ofByte mark
      payload := payload
      dataCrcErr := crcBytes c.crcPoly (seedOf c d.dd) (mark :: payload) !=
        storedCrc T singleByte e (k + sectorLength d.sizeCode + 1) } := by
  obtain ⟨⟨htrack, hside, hsector, hsize⟩, hcrc⟩ := h.idField
  simp only [decodeOne, hpos, htrack, hside, hsector, hsize, hdd, hcrc, hmark, hpayload]

/-- The sector's bytes from its ID mark on. -/
def sectorBody (c : Config) (d : SectorDescriptor) : List Byte := (sectorLayout c d).drop (syncRun d.dd).length

theorem sectorBody_of_unmarked {c : Config} {d : SectorDescriptor} (h : d.dam = none) :
    sectorBody c d = 0xFE :: (idField c d ++ (gap2 d.dd ++ gap3 d.dd)) := by
  simp [sectorBody, sectorLayout, h]

theorem sectorBody_of_marked {c : Config} {d : SectorDescriptor} {dam : DataMark} (h : d.dam = some dam) :
    sectorBody c d = 0xFE :: (idField c d ++ (gap2 d.dd ++ (syncRun d.dd ++ dam.toByte :: (d.payload ++
      (storedCrcBytes (crcBytes c.crcPoly (seedOf c d.dd) (dam.toByte :: d.payload)) d.dataCrcErr ++ gap3 d.dd))))) := by
  simp [sectorBody, sectorLayout, dataField, h]

theorem sectorLayout_eq (c : Config) (d : SectorDescriptor) : sectorLayout c d = syncRun d.dd ++ sectorBody c d := by
  cases hdam : d.dam with
  | none => simp [sectorBody_of_unmarked hdam, sectorLayout, hdam]
  | some dam => simp [sectorBody_of_marked hdam, sectorLayout, dataField, hdam]

theorem sectorBody_head (c : Config) (d : SectorDescriptor) : ∃ rest, sectorBody c d = 0xFE :: rest := by
  cases hdam : d.dam with
  | none => exact ⟨_, sectorBody_of_unmarked hdam⟩
  | some dam => exact ⟨_, sectorBody_of_marked hdam⟩

/-- The search window reaches the data mark of the canonical layout, and of a sector without one it reaches at most seven
bytes past the gaps: in single density the next sector's zeros and its ID mark (R328, R331, R332). -/
def WindowFits (c : Config) (dd : Bool) : Prop :=
  (gap2 dd ++ syncRun dd).length < damLimit c dd ∧ damLimit c dd ≤ (gap2 dd ++ gap3 dd).length + 7

theorem isDataMark_of_mem_gap2_syncRun {dd : Bool} : ∀ v ∈ gap2 dd ++ syncRun dd, isDataMark v = false := by
  cases dd <;> decide

theorem isDataMark_of_mem_gap2_gap3 {dd : Bool} : ∀ v ∈ gap2 dd ++ gap3 dd, isDataMark v = false := by
  cases dd <;> decide

/-- The descriptor Decode gives back: without a data mark Encode wrote no payload and no data CRC (R328, R333). -/
def SectorDescriptor.asEncoded (d : SectorDescriptor) : SectorDescriptor :=
  if d.dam = none then { d with payload := [], dataCrcErr := false } else d

theorem decodeOne_of_unmarked {c : Config} {d : SectorDescriptor} {more : List Byte} (hfits : WindowFits c d.dd)
    (hdd : e.dd = d.dd) (hdam : d.dam = none) (h : SectorReads T singleByte e (sectorBody c d ++ more))
    (hmore : 7 ≤ more.length) (hno : ∀ v ∈ more.take 7, isDataMark v = false) :
    decodeOne c T singleByte e = d.asEncoded := by
  rw [sectorBody_of_unmarked hdam, List.cons_append, List.append_assoc] at h
  have hnone : markPosition c T singleByte e = none := by
    refine markPosition_eq_none (before := 0xFE :: idField c d) h rfl ?_ fun v hv => ?_
    · rw [hdd, List.length_append]
      exact hfits.2.trans (Nat.add_le_add_left hmore _)
    · rw [hdd] at hv
      have hwindow := List.take_subset_take_left _ hfits.2 hv
      rw [List.take_length_add_append] at hwindow
      rcases List.mem_append.1 hwindow with hgap | htail
      · exact isDataMark_of_mem_gap2_gap3 v hgap
      · exact hno v htail
  rw [decodeOne_of_markPosition_none hdd h hnone, SectorDescriptor.asEncoded, if_pos hdam]
  cases d
  cases hdam
  rfl

theorem decodeOne_of_marked {c : Config} {d : SectorDescriptor} {dam : DataMark} {more : List Byte}
    (hfits : WindowFits c d.dd) (hdd : e.dd = d.dd) (hdam : d.dam = some dam)
    (hlen : d.payload.length = sectorLength d.sizeCode) (h : SectorReads T singleByte e (sectorBody c d ++ more)) :
    decodeOne c T singleByte e = d := by
  rw [sectorBody_of_marked hdam] at h
  simp only [List.cons_append, List.append_assoc] at h
  have hpos := markPosition_eq_some (c := c) (e := e) (before := 0xFE :: idField c d) (gap := gap2 d.dd)
    (by rw [hdd]; exact h) rfl (by rw [hdd]; exact hfits.1) (by rw [hdd]; exact isDataMark_of_mem_gap2_syncRun)
    (isDataMark_toByte dam)
  generalize hfront : (0xFE :: idField c d) ++ (gap2 d.dd ++ syncRun d.dd) = front
  have hk : front.length = (gap2 d.dd ++ syncRun d.dd).length + 7 := by
    rw [← hfront, List.length_append, Nat.add_comm]
    rfl
  have hfield : SectorReads T singleByte e (front ++ dam.toByte :: (d.payload ++ (storedCrcBytes
      (crcBytes c.crcPoly (seedOf c d.dd) (dam.toByte :: d.payload)) d.dataCrcErr ++ (gap3 d.dd ++ more)))) := by
    simpa [← hfront] using h
  have hmark := hfield.byte
  have hpayload := SectorReads.bytes (before := front ++ [dam.toByte]) (by simpa using hfield)
  have hcrc := SectorReads.crc_bne (before := front ++ dam.toByte :: d.payload) (by simpa using hfield)
  rw [List.length_append, List.length_singleton, hlen] at hpayload
  rw [List.length_append, List.length_cons, hlen, ← Nat.add_assoc] at hcrc
  rw [hdd, ← hk] at hpos
  rw [decodeOne_of_markPosition_some hdd h hpos hmark hpayload, DataMark.ofByte_toByte, ← hdam, hcrc]

theorem decodeOne_sectorBody {c : Config} {d : SectorDescriptor} {more : List Byte} (hfits : WindowFits c d.dd)
    (hdd : e.dd = d.dd) (hlen : d.payload.length = sectorLength d.sizeCode)
    (h : SectorReads T singleByte e (sectorBody c d ++ more)) (hmore : 7 ≤ more.length)
    (hno : ∀ v ∈ more.take 7, isDataMark v = false) : decodeOne c T singleByte e = d.asEncoded := by
  cases hdam : d.dam with
  | none => exact decodeOne_of_unmarked hfits hdd hdam h hmore hno
  | some dam => rw [decodeOne_of_marked hfits hdd hdam hlen h, SectorDescriptor.asEncoded, if_neg (by simp [hdam])]

end Sector

/-! ### The whole track (R326, R335) -/

theorem layoutSectors_cons (c : Config) (pos : Nat) (d : SectorDescriptor) (rest : List SectorDescriptor) :
    layoutSectors c pos (d :: rest) =
      (sectorLayout c d ++ (layoutSectors c (pos + (sectorLayout c d).length) rest).1,
        (pos + (syncRun d.dd).length) :: (layoutSectors c (pos + (sectorLayout c d).length) rest).2) := rfl

/-- After a sector come seven bytes that are no data marks: zeros and at most the next ID mark, or gap bytes. -/
theorem layoutSectors_take_seven (c : Config) (pos : Nat) {ds : List SectorDescriptor} {dd : Bool}
    (hds : ∀ d ∈ ds, d.dd = dd) :
    7 ≤ ((layoutSectors c pos ds).1 ++ gap4a dd).length ∧
      ∀ v ∈ ((layoutSectors c pos ds).1 ++ gap4a dd).take 7, isDataMark v = false := by
  cases ds with
  | nil =>
    show 7 ≤ (gap4a dd).length ∧ ∀ v ∈ (gap4a dd).take 7, isDataMark v = false
    cases dd <;> decide
  | cons d rest =>
    obtain ⟨body, hbody⟩ := sectorBody_head c d
    rw [layoutSectors_cons, sectorLayout_eq, hbody, hds d List.mem_cons_self]
    generalize (layoutSectors c _ rest).1 = more
    cases dd with
    | false =>
      refine ⟨by simp [syncRun], ?_⟩
      show ∀ v ∈ [0x00, 0x00, 0x00, 0x00, 0x00, 0x00, 0xFE], isDataMark v = false
      decide
    | true =>
      refine ⟨by simp [syncRun], ?_⟩
      show ∀ v ∈ [0x00, 0x00, 0x00, 0x00, 0x00, 0x00, 0x00], isDataMark v = false
      decide

/-- Decode of the sectors laid out after `before`, when the track reads as these bytes and gap bytes after them. -/
theorem decode_layoutSectors {c : Config} {T : Track} {dd singleByte : Bool} (hfits : WindowFits c dd)
    {ds : List SectorDescriptor} : ∀ before : List Byte,
    (∀ d ∈ ds, d.dd = dd ∧ d.payload.length = sectorLength d.sizeCode) →
    T.Reads (entryStride dd singleByte) (before ++ (layoutSectors c before.length ds).1 ++ gap4a dd) →
    entryStride dd singleByte * (before ++ (layoutSectors c before.length ds).1).length ≤ T.len →
    (((layoutSectors c before.length ds).2.map (idMarkEntry dd singleByte)).filter
      fun e => T.data.read e.offset == 0xFE).map (decodeOne c T singleByte) = ds.map SectorDescriptor.asEncoded := by
  induction ds with
  | nil => intros; rfl
  | cons d rest ih =>
    intro before hds hreads hfit
    obtain ⟨⟨hdd, hlen⟩, hrest⟩ := List.forall_mem_cons.1 hds
    have htail := ih (before ++ sectorLayout c d) hrest
    obtain ⟨hseven, hno⟩ := layoutSectors_take_seven c (before ++ sectorLayout c d).length fun x hx => (hrest x hx).1
    rw [layoutSectors_cons, ← List.length_append (as := before) (bs := sectorLayout c d)] at hreads hfit ⊢
    generalize layoutSectors c (before ++ sectorLayout c d).length rest = laid at htail hseven hno hreads hfit ⊢
    rw [← List.append_assoc before] at hreads hfit
    have hsplit : before ++ sectorLayout c d ++ laid.1 ++ gap4a dd =
        (before ++ syncRun d.dd) ++ (sectorBody c d ++ (laid.1 ++ gap4a dd)) := by
      rw [sectorLayout_eq]
      simp only [List.append_assoc]
    have hsector := (hsplit ▸ hreads).sectorReads
    rw [List.length_append] at hsector
    have hin : (idMarkEntry dd singleByte (before.length + (syncRun d.dd).length)).offset < T.len := by
      refine lt_of_lt_of_le ((Nat.mul_lt_mul_left (entryStride_pos dd singleByte)).2 ?_) hfit
      have hsync := length_syncRun_lt c d
      simp only [List.length_append]
      omega
    have hmark : T.data.read (idMarkEntry dd singleByte (before.length + (syncRun d.dd).length)).offset = 0xFE := by
      obtain ⟨body, hbody⟩ := sectorBody_head c d
      rw [hbody] at hsector
      have hfirst := hsector 0 0xFE rfl
      rwa [sectorByte, Nat.zero_mul, Nat.add_zero, Nat.mod_eq_of_lt hin] at hfirst
    rw [List.map_cons, List.filter_cons_of_pos (by rw [hmark]; rfl), List.map_cons, List.map_cons, htail hreads hfit,
      decodeOne_sectorBody (hdd ▸ hfits) hdd.symm hlen hsector hseven hno]

/-- Decode of an encoded track (R335). -/
theorem decodeTrack_of_encodeTrack {c : Config} {ds : List SectorDescriptor} {dd singleByte : Bool} {cap : Nat} {T : Track}
    (hfits : WindowFits c dd) (h : encodeTrack c ds dd cap singleByte = some T) :
    decodeTrack c T singleByte = ds.map SectorDescriptor.asEncoded := by
  have hreads := encodeTrack_reads h
  obtain ⟨hds, hfit, hT⟩ := encodeTrack_eq_some h
  have hdecode := decode_layoutSectors (c := c) (T := T) hfits (gap4a dd) hds hreads (by rw [hT]; exact hfit)
  have hindex : T.index = (layoutSectors c (gap4a dd).length ds).2.map (idMarkEntry dd singleByte) := by rw [hT]
  rw [decodeTrack, hindex, hdecode]

theorem windowFits_of_limits {c : Config} (hdd : 38 ≤ c.damLimitDd) (hdd' : c.damLimitDd ≤ 46) (hsd : 18 ≤ c.damLimitSd)
    (hsd' : c.damLimitSd ≤ 30) (dd : Bool) : WindowFits c dd := by
  cases dd with
  | false => exact ⟨hsd, hsd'⟩
  | true => exact ⟨hdd, hdd'.trans (Nat.le_add_right _ 7)⟩

/-- Settles O55: an encoded track reads as its layout, on which Decode's search finds each sector's data mark, or none in a
sector without one. -/
theorem decodeOfEncodeTrack : Obligations.DecodeOfEncodeTrack := by
  unfold Obligations.DecodeOfEncodeTrack
  intro c ds dd cap singleByte T hdd hdd' hsd hsd' _ hencode
  have hdecode := decodeTrack_of_encodeTrack (windowFits_of_limits hdd hdd' hsd hsd' dd) hencode
  refine ⟨hdecode, fun hmarked => ?_⟩
  have hsame : ds.map SectorDescriptor.asEncoded = ds :=
    (List.map_congr_left fun d hd => if_neg (hmarked d hd)).trans (List.map_id ds)
  rw [hdecode, hsame, hencode]

end Sys2Proof.Machine
end

section
/-! PROOFS. A saved disk image loads back as the medium it was saved from (R364 to R368). -/

namespace Sys2Proof.Machine

/-! ### The pointer words of a record (R365) -/

theorem leWords_flatMap_leWord {ws : List Nat} (h : ∀ w ∈ ws, w < 0x10000) : leWords (ws.flatMap leWord) = ws := by
  induction ws with
  | nil => rfl
  | cons w rest ih =>
    obtain ⟨hw, hrest⟩ := List.forall_mem_cons.1 h
    rw [List.flatMap_cons]
    show ((BitVec.ofNat 8 w).toNat + 256 * (BitVec.ofNat 8 (w / 256)).toNat) :: leWords (rest.flatMap leWord) = w :: rest
    rw [ih hrest, BitVec.toNat_ofNat, BitVec.toNat_ofNat]
    congr 1
    omega

theorem length_flatMap_leWord (ws : List Nat) : (ws.flatMap leWord).length = 2 * ws.length := by
  induction ws with
  | nil => rfl
  | cons w rest ih =>
    rw [List.flatMap_cons, List.length_append, ih, List.length_cons, leWord, List.length_cons, List.length_singleton]
    omega

/-- Empty pointer slots are zero words. -/
theorem replicate_zero_eq_flatMap_leWord (k : Nat) :
    List.replicate (2 * k) (0x00 : Byte) = (List.replicate k 0).flatMap leWord := by
  induction k with
  | zero => rfl
  | succ k ih =>
    rw [List.replicate_succ, List.flatMap_cons, ← ih]
    rfl

/-- The words of the pointer slots of a record: the entries' words and zeros behind them (R365, R368). -/
def pointerWords (c : Config) (index : List IdamEntry) : List Nat :=
  index.map (pointerWord c) ++ List.replicate (c.idamSlots - index.length) 0

theorem length_pointerWords {c : Config} {index : List IdamEntry} (h : index.length ≤ c.idamSlots) :
    (pointerWords c index).length = c.idamSlots := by
  simp [pointerWords, h]

/-- The pointer words fit 16 bits when the pointers fit 14. -/
theorem pointerWords_lt {c : Config} {index : List IdamEntry} (h : ∀ e ∈ index, e.offset + c.idamBase < 0x4000) :
    ∀ w ∈ pointerWords c index, w < 0x10000 := by
  intro w hw
  rcases List.mem_append.1 hw with hmem | hzero
  · obtain ⟨e, he, rfl⟩ := List.mem_map.1 hmem
    have := h e he
    unfold pointerWord
    split_ifs <;> omega
  · rw [List.eq_of_mem_replicate hzero]
    decide

/-- The load takes a saved pointer word apart into the entry it was made of, and stops at the zero words (R366). -/
theorem parsePointers_pointerWords {c : Config} {index : List IdamEntry} {dataLen : Nat} (hbase : 0 < c.idamBase)
    (hin : ∀ e ∈ index, e.offset < dataLen) (hfit : ∀ e ∈ index, e.offset + c.idamBase < 0x4000) (k : Nat) :
    parsePointers c.idamBase dataLen (index.map (pointerWord c) ++ List.replicate k 0) = some index := by
  induction index with
  | nil => cases k <;> rfl
  | cons e rest ih =>
    obtain ⟨he, hrest⟩ := List.forall_mem_cons.1 hin
    obtain ⟨hsmall, hsmalls⟩ := List.forall_mem_cons.1 hfit
    have hword : pointerWord c e ≠ 0 ∧ pointerWord c e % 0x4000 = e.offset + c.idamBase ∧
        decide (0x8000 ≤ pointerWord c e) = e.dd := by
      unfold pointerWord
      cases e.dd <;> simp <;> omega
    obtain ⟨hne, hoff, hdd⟩ := hword
    rw [List.map_cons, List.cons_append, parsePointers, if_neg hne, hoff, hdd, ih hrest hsmalls]
    dsimp only
    rw [if_neg (by omega), Nat.add_sub_cancel]
    rfl

theorem insertEntry_of_ascending {e : IdamEntry} {l : List IdamEntry} (h : ascendingFrom (e.offset + 1) l = true) :
    insertEntry e l = e :: l := by
  cases l with
  | nil => rfl
  | cons x rest => exact if_pos (ascendingFrom_cons.1 h).1

/-- An index in order is its own sorting. -/
theorem sortEntries_of_ascending {l : List IdamEntry} {lo : Nat} (h : ascendingFrom lo l = true) : sortEntries l = l := by
  induction l generalizing lo with
  | nil => rfl
  | cons e rest ih =>
    have hrest := (ascendingFrom_cons.1 h).2
    show insertEntry e (sortEntries rest) = e :: rest
    rw [ih hrest, insertEntry_of_ascending hrest]

/-! ### The data of a record -/

/-- A buffer reads blank from its end on. -/
theorem Memory.read_of_all_lt {m : Memory} {n a : Nat} (h : ∀ cell ∈ m, cell.1 < n) (ha : n ≤ a) :
    m.read a = blankByte := by
  induction m with
  | nil => rfl
  | cons cell rest ih =>
    obtain ⟨hcell, hrest⟩ := List.forall_mem_cons.1 h
    rw [Memory.read, if_neg (by omega), ih hrest]

/-- A buffer is made again from the bytes it holds. -/
theorem Memory.ofBytes_bytes {m : Memory} {n : Nat} (hwf : m.wf = true) (h : ∀ cell ∈ m, cell.1 < n) :
    Memory.ofBytes 0 (m.bytes 0 n) = m := by
  refine Memory.ext (Memory.ofBytes_wf _) hwf fun a => ?_
  have hread := Memory.read_ofBytes (m.bytes 0 n) 0 a
  rw [Nat.zero_add] at hread
  rw [hread, Memory.bytes]
  by_cases ha : a < n
  · simp [ha]
  · rw [Memory.read_of_all_lt h (Nat.le_of_not_lt ha), List.getD_eq_default _ _ (by simpa using ha)]

theorem Memory.length_bytes (m : Memory) (a n : Nat) : (m.bytes a n).length = n := by simp [Memory.bytes]

/-! ### One track record (R364) -/

/-- A track whose record loads back: its buffer fills the record, its index is in order and its pointers fit 14 bits. -/
structure Track.Fills (c : Config) (declLen : Nat) (T : Track) : Prop where
  len : T.len = declLen - c.trackHdr
  wf : T.data.wf = true
  inside : ∀ cell ∈ T.data, cell.1 < T.len
  slots : T.index.length ≤ c.idamSlots
  ascending : ascendingFrom 0 T.index = true
  marks : ∀ e ∈ T.index, e.offset < T.len

/-- The parameters of a file whose records load back: what every medium's record needs of them. -/
structure RecordLayout (c : Config) (declLen : Nat) : Prop where
  header : c.trackHdr = 2 * c.idamSlots
  base : c.idamBase = c.trackHdr
  nonempty : 0 < c.trackHdr
  data : c.trackHdr < declLen
  pointers : declLen ≤ 0x4000

/-- A record is its pointer words and its data. -/
theorem trackRecord_of_fills {c : Config} {declLen : Nat} {T : Track} (hT : T.Fills c declLen) :
    trackRecord c declLen T = (pointerWords c T.index).flatMap leWord ++ T.data.bytes 0 T.len := by
  rw [trackRecord, hT.len, Nat.sub_self, List.replicate_zero, List.append_nil, replicate_zero_eq_flatMap_leWord,
    pointerWords, List.flatMap_append, List.flatMap_map]

theorem length_trackHeader {c : Config} {declLen : Nat} {T : Track} (hc : RecordLayout c declLen) (hT : T.Fills c declLen) :
    ((pointerWords c T.index).flatMap leWord).length = c.trackHdr := by
  rw [length_flatMap_leWord, length_pointerWords hT.slots, hc.header]

theorem length_trackRecord {c : Config} {declLen : Nat} {T : Track} (hc : RecordLayout c declLen) (hT : T.Fills c declLen) :
    (trackRecord c declLen T).length = declLen := by
  rw [trackRecord_of_fills hT, List.length_append, length_trackHeader hc hT, Memory.length_bytes, hT.len]
  exact Nat.add_sub_cancel' hc.data.le

/-- One track is loaded from the record it was saved as. -/
theorem loadTrack_trackRecord {c : Config} {declLen : Nat} {T : Track} (hc : RecordLayout c declLen)
    (hT : T.Fills c declLen) : loadTrack c (trackRecord c declLen T) = some T := by
  have hlen := length_trackHeader hc hT
  have hfit : ∀ e ∈ T.index, e.offset + c.idamBase < 0x4000 := fun e he => by
    have hmark := hT.marks e he
    rw [hT.len] at hmark
    rw [hc.base]
    exact (Nat.add_lt_of_lt_sub hmark).trans_le hc.pointers
  have hwords := leWords_flatMap_leWord (pointerWords_lt hfit)
  have hparse : parsePointers c.idamBase T.len (pointerWords c T.index) = some T.index :=
    parsePointers_pointerWords (hc.base ▸ hc.nonempty) hT.marks hfit _
  rw [loadTrack, trackRecord_of_fills hT]
  rw [List.drop_left' hlen, List.take_left' (hlen.trans hc.header), hwords, Memory.length_bytes, hparse, Option.map_some,
    Memory.ofBytes_bytes hT.wf hT.inside, sortEntries_of_ascending hT.ascending]

theorem loadTracks_flatMap_trackRecord {c : Config} {declLen : Nat} (hc : RecordLayout c declLen) {ts : List Track}
    (hts : ∀ T ∈ ts, T.Fills c declLen) :
    loadTracks c declLen ts.length (ts.flatMap (trackRecord c declLen)) = some ts := by
  induction ts with
  | nil => rfl
  | cons T rest ih =>
    obtain ⟨hT, hrest⟩ := List.forall_mem_cons.1 hts
    have hlen := length_trackRecord hc hT
    rw [List.length_cons, List.flatMap_cons, loadTracks, List.take_left' hlen, loadTrack_trackRecord hc hT]
    dsimp only
    rw [List.drop_left' hlen, ih hrest]
    rfl

theorem length_flatMap_trackRecord {c : Config} {declLen : Nat} (hc : RecordLayout c declLen) {ts : List Track}
    (hts : ∀ T ∈ ts, T.Fills c declLen) : (ts.flatMap (trackRecord c declLen)).length = ts.length * declLen := by
  induction ts with
  | nil => simp
  | cons T rest ih =>
    obtain ⟨hT, hrest⟩ := List.forall_mem_cons.1 hts
    rw [List.flatMap_cons, List.length_append, length_trackRecord hc hT, ih hrest, List.length_cons, Nat.succ_mul,
      Nat.add_comm]

/-! ### The file header (R361) -/

theorem imageHeader_length (m : Medium) : (imageHeader m).length = 16 := rfl

/-- The geometry bytes of a saved header: the track count and the record length fit their fields. -/
theorem imageHeader_geometry {m : Medium} (records : List Byte) (htracks : m.tracksPerSide < 0x100)
    (hdecl : m.declLen < 0x10000) :
    (fileByte (imageHeader m ++ records) 1).toNat = m.tracksPerSide ∧
      (fileByte (imageHeader m ++ records) 2).toNat + 256 * (fileByte (imageHeader m ++ records) 3).toNat = m.declLen := by
  show (BitVec.ofNat 8 m.tracksPerSide).toNat = _ ∧
    (BitVec.ofNat 8 m.declLen).toNat + 256 * (BitVec.ofNat 8 (m.declLen / 256)).toNat = _
  simp only [BitVec.toNat_ofNat]
  omega

/-- The flags of a saved header: the write-protect byte, and the sides and the density encoding in byte 4. -/
theorem imageHeader_flags {m : Medium} (records : List Byte) (hsides : m.sides = 1 ∨ m.sides = 2) :
    (fileByte (imageHeader m ++ records) 0 != 0) = m.writeProtected ∧
      (if (fileByte (imageHeader m ++ records) 4).getLsbD 4 then 1 else 2) = m.sides ∧
      (fileByte (imageHeader m ++ records) 4).getLsbD 6 = m.singleByte ∧
      (fileByte (imageHeader m ++ records) 4).getLsbD 7 = false := by
  show ((if m.writeProtected then 0xFF else 0x00 : Byte) != 0) = _ ∧
    (if ((if m.sides = 1 then 0x10 else 0 : Byte) ||| (if m.singleByte then 0x40 else 0)).getLsbD 4 then 1 else 2) = _ ∧
    ((if m.sides = 1 then 0x10 else 0 : Byte) ||| (if m.singleByte then 0x40 else 0)).getLsbD 6 = _ ∧
    ((if m.sides = 1 then 0x10 else 0 : Byte) ||| (if m.singleByte then 0x40 else 0)).getLsbD 7 = _
  refine ⟨by cases m.writeProtected <;> rfl, ?_⟩
  rcases hsides with h | h <;> rw [h] <;> cases m.singleByte <;> decide

/-! ### The whole file -/

/-- What the geometry of a medium says (R68). -/
theorem Medium.geometryOk_iff {c : Config} {m : Medium} :
    m.geometryOk c = true ↔ 1 ≤ m.tracksPerSide ∧ m.tracksPerSide ≤ c.maxTrack + 1 ∧ (m.sides = 1 ∨ m.sides = 2) ∧
      c.trackHdr < m.declLen ∧ m.declLen ≤ c.trackLenMax ∧ m.tracks.length = m.tracksPerSide * m.sides := by
  simp [Medium.geometryOk, and_assoc]

/-- A track of a medium in form that is as long as its record fills it. -/
theorem Track.fills_of_wf {c : Config} {declLen : Nat} {T : Track} (hbuffer : T.bufferOk (declLen - c.trackHdr) = true)
    (hindex : T.indexOk c = true) (hlen : T.len = declLen - c.trackHdr) : T.Fills c declLen := by
  obtain ⟨hslots, hasc, hmarks⟩ := Track.indexOk_iff.1 hindex
  simp only [Track.bufferOk, Bool.and_eq_true, decide_eq_true_eq, List.all_eq_true] at hbuffer
  obtain ⟨⟨-, hwf⟩, hinside⟩ := hbuffer
  exact ⟨hlen, hwf, hinside, hslots, hasc, hmarks⟩

/-- Settles O53: the header gives the geometry and the flags back, and each record its track. -/
theorem loadOfSave : Obligations.LoadOfSave := by
  unfold Obligations.LoadOfSave
  intro c path m hwf hhdr hslots hpos hbase hmax hdecl hlens
  obtain ⟨hgeo, htracks⟩ := Medium.wf_iff.1 hwf
  obtain ⟨hsome, hcount, hsides, hdata, hdeclMax, hlist⟩ := Medium.geometryOk_iff.1 hgeo
  have hc : RecordLayout c m.declLen := ⟨hslots, hbase, hpos, hdata, hdeclMax.trans hdecl⟩
  have hfills : ∀ T ∈ m.tracks, T.Fills c m.declLen := fun T hT =>
    Track.fills_of_wf (htracks T hT).1 (htracks T hT).2 (hlens T hT)
  have hlength : (saveImage c m).length = 16 + m.tracks.length * m.declLen := by
    rw [saveImage, List.length_append, imageHeader_length, length_flatMap_trackRecord hc hfills]
  have hload : loadTracks c m.declLen m.tracks.length ((saveImage c m).drop 16) = some m.tracks := by
    rw [saveImage, List.drop_left' (imageHeader_length m), loadTracks_flatMap_trackRecord hc hfills]
  obtain ⟨hfileTracks, hfileDecl⟩ := imageHeader_geometry (m := m) (m.tracks.flatMap (trackRecord c m.declLen))
    (by omega) (by omega)
  obtain ⟨hfileWp, hfileSides, hfileSingle, hfileIgnore⟩ :=
    imageHeader_flags (m := m) (m.tracks.flatMap (trackRecord c m.declLen)) hsides
  rw [← saveImage] at hfileTracks hfileDecl hfileWp hfileSides hfileSingle hfileIgnore
  unfold loadImage
  dsimp only
  rw [hfileTracks, hfileDecl, hfileWp, hfileSides, hfileSingle, hfileIgnore, hhdr, ← hlist, hload, hlength,
    if_neg (by omega), if_neg Bool.false_ne_true, if_neg (by omega), if_neg (by omega), if_neg (lt_irrefl _)]

end Sys2Proof.Machine
end

section
/-! PROOFS. Completion (R410), power-on (R442), Reset() and the status after it (R440, R441, R443). -/

namespace Sys2Proof.Machine

/-! ### Completion -/

/-- Settles O41: a running command's transition to NMI runs its handler, which completes the command. -/
theorem completion : Obligations.Completion := by
  unfold Obligations.Completion
  intro s hfault hbusy hcmd
  obtain ⟨k, hk, hcompletes⟩ : completesAs s (s.goto .nmi 0) := finish_completes 15 hbusy hcmd
  exact ⟨k, hk, by rw [exec_goto hfault, hcompletes]; rfl⟩

/-! ### The power-on state -/

theorem State.reset_drive (n : Fin 4) : State.reset.drive n = { physTrack := 0, medium := none } := by
  simp [State.drive, State.reset]

/-- Settles O49: the drives by their number, every other field by its value. -/
theorem powerOn : Obligations.PowerOn := by
  unfold Obligations.PowerOn
  exact ⟨rfl, rfl, rfl, rfl, fun n => by rw [State.reset_drive]; exact ⟨rfl, rfl⟩, rfl, rfl, rfl, rfl, rfl⟩

theorem Config.default_legal : legalConfig Config.default = true := by decide +kernel

theorem State.reset_inv : State.reset.Inv where
  legal := Config.default_legal
  aligned := Nat.zero_mod _
  bounded := by decide
  future := fun _ _ he => absurd he List.not_mem_nil
  periods := fun _ he => absurd he List.not_mem_nil
  handles := fun _ he => absurd he List.not_mem_nil
  seqs := fun _ he => absurd he List.not_mem_nil
  oneError := by decide
  heads := fun n => by rw [State.reset_drive]; exact Nat.zero_le _
  media := fun n m hm => by rw [State.reset_media] at hm; cases hm
  newIndex := Nat.zero_le _
  selected := fun n _ => n.isLt

theorem State.reset_seqInv : State.reset.SeqInv where
  idle := fun _ => ⟨rfl, fun _ he => absurd he List.not_mem_nil⟩
  waiting := fun hbusy => by cases hbusy
  command := fun _ he => absurd he List.not_mem_nil
  motor := fun _ he => absurd he List.not_mem_nil
  index := fun _ he => absurd he List.not_mem_nil
  distinct := List.Pairwise.nil
  fresh := fun _ he => absurd he List.not_mem_nil
  idBuffer := fun hop => by cases hop

theorem State.reset_indexInv : State.reset.IndexInv where
  indexes := fun n m hm => by rw [State.reset_media] at hm; cases hm
  rising := fun hwriting => by cases hwriting
  behind := fun hwriting => by cases hwriting
  inside := fun hwriting => by cases hwriting

/-- Settles O56: the power-on clock holds no entry, the controller is idle and every drive is empty. -/
theorem invAtReset : Obligations.InvAtReset := ⟨State.reset_inv, State.reset_seqInv, State.reset_indexInv⟩

/-! ### Reset() -/

/-- The entries of the block's own callbacks are those that are not External (R36, R441). -/
theorem Pulse.fdcOwned_eq (e : Pulse) :
    e.fdcOwned = (e.cb == .fdcStep || e.cb == .motorOff || e.cb == .indexIrq) := by
  unfold Pulse.fdcOwned
  cases e.cb <;> rfl

theorem Pulse.expire_ite (e : Pulse) (own : Bool) :
    (if own then { e with expired := true } else e) = { e with expired := e.expired || own } := by
  cases own <;> simp

/-- Everything Reset() does (R440, R441). -/
theorem State.hardReset_eq (s : State) : s.hardReset = { s with
    fdc := Fdc.reset
    clk := { s.clk with pulses := s.clk.pulses.map fun e => { e with
      expired := e.expired || (e.cb == .fdcStep || e.cb == .motorOff || e.cb == .indexIrq) } }
    drives := s.abortIfWriting.drives.map fun d => { d with physTrack := 0 }
    motorOn := false, motorPulse := none, motorIrq := false, lastReady := false } := by
  simp only [← Pulse.fdcOwned_eq, ← Pulse.expire_ite, ← State.hardReset_pulses, ← State.hardReset_clk]
  show ({ s.abortIfWriting with
    clk := s.hardReset.clk, fdc := _, drives := _, motorOn := _, motorPulse := _, motorIrq := _, lastReady := _ } : State) = _
  rw [State.abortIfWriting_shape]
  rfl

/-- What Reset() aborts does not depend on where the Host is. -/
theorem State.abortIfWriting_host_drives (s : State) (script : List HostItem) (inUnit : Bool) :
    ({ s with script := script, inUnit := inUnit } : State).abortIfWriting.drives = s.abortIfWriting.drives := by
  unfold State.abortIfWriting
  rw [apply_ite State.drives, apply_ite State.drives]
  exact if_congr Iff.rfl (State.wtAbort_drives_congr rfl rfl rfl rfl rfl rfl) rfl

/-- A reset from outside is always carried out: it is about no drive (R440). -/
theorem State.operate_reset (s : State) : s.operate .reset = .next s.hardReset := rfl

theorem step_of_resetLine {s : State} {rest : List HostItem} (hfault : s.fault = none) (hop : s.operatorNow = none)
    (hheld : s.held = false) (hscript : s.script = .resetLine :: rest) :
    step s = .next ({ s with script := rest, inUnit := true } : State).hardReset := by
  have hevent : s.nextEvent = .resetLine { s with script := rest } := by
    rw [State.nextEvent_eq_hostEvent hfault hop hheld, State.hostEvent, hscript]
  rw [step, hevent]
  exact portAccess_next (s := { s with script := rest }) hfault _

/-- Settles O50: the reset line does inside the Host's unit what a reset from outside does. -/
theorem hardReset : Obligations.HardReset := by
  unfold Obligations.HardReset
  intro s s1 t
  have ht : s.hardReset = t := s.hardReset_eq
  refine ⟨by rw [State.operate_reset, ht], fun rest hfault hop hheld hscript => ?_⟩
  rw [step_of_resetLine hfault hop hheld hscript, State.hardReset_eq, State.abortIfWriting_host_drives]
  rfl

/-! ### The status after Reset() (R443, R181) -/

/-- The status of a controller at its reset values with the motor off and drive 0's head at track 0. -/
theorem State.status_of_reset {s : State} (hfdc : s.fdc = Fdc.reset) (hmotor : s.motorOn = false)
    (hhead : (s.drive 0).physTrack = 0) : s.status = if s.wp 0 then 0xC4 else 0x84 := by
  have hsel : s.fdc.selDrive = some 0 := by rw [hfdc]; rfl
  have hmode : s.fdc.statusMode = .typeI := by rw [hfdc]; rfl
  have hready : s.ready = false := by simp [State.ready, hsel, hmotor]
  have hwp : s.statusWp = s.wp 0 := by simp [State.statusWp, hmode, State.wpSel, hsel]
  have hloaded : s.statusHead = false := by simp [State.statusHead, hfdc, Fdc.reset]
  have htrk0 : s.statusTrk0 = true := by simp [State.statusTrk0, hmode, State.trk0, hsel, hhead]
  have hindex : s.statusIndex = false := by simp [State.statusIndex, hmode, hready]
  rw [State.status, hready, hwp, hloaded, htrk0, hindex, hfdc]
  cases s.wp 0 <;> rfl

theorem Medium.setTrack_writeProtected (m : Medium) (t : Nat) (side : Bool) (T : Track) :
    (m.setTrack t side T).writeProtected = m.writeProtected := by
  unfold Medium.setTrack
  split <;> rfl

theorem State.setCurTrack_wp (s : State) (T : Track) (c : Bool) (k : Fin 4) : (s.setCurTrack T c).wp k = s.wp k := by
  rcases s.setCurTrack_cases T c with h | ⟨n, m, -, hm, h⟩
  · rw [h]
  · rw [h, State.wp, State.wp, State.drive_setDrive]
    split_ifs with hk
    · rw [← hk, hm]
      exact m.setTrack_writeProtected _ _ _
    · rfl

theorem State.abortIfWriting_wp (s : State) (k : Fin 4) : s.abortIfWriting.wp k = s.wp k := by
  unfold State.abortIfWriting State.wtAbort
  split_ifs
  · split
    · exact s.setCurTrack_wp _ _ k
    · rfl
  · rfl

/-- Reset() leaves every write-protect sense. -/
theorem State.hardReset_wp (s : State) (k : Fin 4) : s.hardReset.wp k = s.wp k := by
  rw [← s.abortIfWriting_wp k, State.wp, State.hardReset_drive]
  rfl

theorem State.wp_eq_true_iff {s : State} {n : Fin 4} :
    s.wp n = true ↔ ∃ m, (s.drive n).medium = some m ∧ m.writeProtected = true := by
  unfold State.wp
  cases (s.drive n).medium <;> simp

/-- A status read returns the status (R172). -/
theorem exec_rdStatus_hostData {s : State} (hfault : s.fault = none) :
    ∃ t, exec .rdStatus s = .next t ∧ t.hostData = s.status := ⟨_, statusRead s hfault, rfl⟩

/-- Settles O51: at its reset values the controller shows NOT READY, TRACK 0 and drive 0's write-protect sense. -/
theorem statusAfterReset : Obligations.StatusAfterReset := by
  unfold Obligations.StatusAfterReset
  refine ⟨?_, fun s hfault => ?_⟩
  · obtain ⟨t, ht, hdata⟩ := exec_rdStatus_hostData (s := State.reset) rfl
    have hwp : State.reset.wp 0 = false := by rw [State.wp, State.reset_media]
    rw [State.status_of_reset rfl rfl (by rw [State.reset_drive]), hwp] at hdata
    exact ⟨t, ht, hdata⟩
  · have hfault' : s.hardReset.fault = none := s.abortIfWriting_fault.trans hfault
    obtain ⟨t, ht, hdata⟩ := exec_rdStatus_hostData hfault'
    rw [State.status_of_reset rfl rfl (by rw [State.hardReset_drive]), State.hardReset_wp] at hdata
    refine ⟨s.hardReset, t, s.operate_reset, ht, fun hprotected => ?_, fun hopen => ?_⟩
    · rw [hdata, if_pos (State.wp_eq_true_iff.2 hprotected)]
    · rw [hdata, if_neg (mt State.wp_eq_true_iff.1 hopen)]

end Sys2Proof.Machine
end
